-- ==== Sys2Proof/Word.lean ====
section
/-! DEFINITION. The word types of the framer: bit 0 is the least significant bit of every value and nothing is
signed (00_scope.md section 6). -/

namespace Sys2Proof

/-- One byte: what one `TRANSCEIVE` moves each way (R6, `BYTE_W`). -/
abbrev Byte := BitVec 8

/-- A 16-bit value: the data of a `WRITE`, the result of a `READ`, the header word (R6, `DATA_W`; R52). -/
abbrev Word16 := BitVec 16

end Sys2Proof
end

