-- ==== Sys2Proof/Config.lean ====
section
/-! DEFINITION. What is fixed for one machine: the constants of the Serial Shift Engine (R6) and
the values the spec leaves open, each an opaque constant with no body, so that no proof can see its value. -/

namespace Sys2Proof

/-- The role of the Serial Shift Engine (R21, `SSE_ROLE`; R144 names the slave role as what an unconfigured engine may be in). -/
inductive Role where
  | master
  | slave
deriving DecidableEq, Repr

/-- The two console characters that trigger the pseudo-command (R66). -/
inductive ConsoleKey where
  | lowerX
  | upperX
deriving DecidableEq, Repr

namespace Config

/-- `SSE_ROLE` after `INIT` (R6, R21). -/
def sseRole : Role := .master

/-- `SSE_CPOL` after `INIT` (R6, R21). -/
def sseCpol : Bool := true

/-- `SSE_CPHA` after `INIT` (R6, R21). -/
def sseCpha : Bool := true

/-- `SCK_DIV`: the compile-time clock divider (R7, D16); no rule reads it (log entry 11). -/
opaque sckDiv : Nat

/-- `F_SYS`: the system clock frequency the build must supply (R7, R143); no rule reads it (log entry 11). -/
opaque fSys : Nat

/-- `BAUD`: the baud rate of the excluded console (R7); no rule reads it (log entry 11). -/
opaque baud : Nat

/-- `OE_ACTIVE_LEVEL`: the pin level that stands for `oe = 1` (R7, D7); only `oePinLevel` reads it (log entry 11). -/
opaque oeActiveLevel : Bool

/-- The level of the chip-select-equivalent pin, which the framer never changes (R22, D17; log entry 11). -/
opaque chipSelectLevel : Bool

/-- `X_CMD_DATA`: the data of the console-triggered write, possibly one value per character (R7, R66, D21; log entry 11). -/
opaque xCmdData : ConsoleKey → Word16

/-- FREE VALUE (log entry 10): the received byte of a `TRANSCEIVE` for which the PHY's script holds no answer, `draw(8)`
of R37; the argument is the counter `draws` of the state. -/
opaque rxDraw : Nat → Byte

end Config
end Sys2Proof
end

