-- ==== Sys2Proof/Syntax.lean ====
section
/-! DEFINITION. The command set: one constructor per row of spec/opcode_table.json (R59, R60). -/

namespace Sys2Proof

/-- An address operand as the host supplies it, of which the low five bits are significant (R81). Its width `ADDR_IN_W` is
8: DESIGN CHOICE (log entry 12); the spec decides 8 (D2) and allows any width of at least 5. -/
abbrev AddrOperand := BitVec 8

/-- The transaction kind (R11). -/
inductive Kind where
  | write
  | read
deriving DecidableEq, Repr

/-- The two commands (R59, R60, R63). -/
inductive Instr where
  /-- `WRITE phyAddr, regAddr, data` (R85). -/
  | write (phyAddr regAddr : AddrOperand) (data : Word16)
  /-- `READ phyAddr, regAddr` (R91); it has no data operand. -/
  | read (phyAddr regAddr : AddrOperand)
deriving DecidableEq, Repr

/-- The transaction kind of a command (R11, R102). -/
def Instr.kind : Instr → Kind
  | .write _ _ _ => .write
  | .read _ _ => .read

/-- The PHY address operand of a command. -/
def Instr.phyAddr : Instr → AddrOperand
  | .write p _ _ => p
  | .read p _ => p

/-- The register address operand of a command. -/
def Instr.regAddr : Instr → AddrOperand
  | .write _ r _ => r
  | .read _ r => r

end Sys2Proof
end

