-- ==== Sys2Proof/WellFormed.lean ====
section
/-! DEFINITION. The canonical spelling of a command: both address operands in 0 .. 31, so that the frame carries every
bit of them. It is NO condition for running a command: an operand above 31 is accepted and truncated (R38, R56, R81). -/

namespace Sys2Proof

/-- An address operand the 5-bit field of the header holds whole (R6, `PHYAD_W`, `REGAD_W`). -/
def addrFits (a : AddrOperand) : Bool := a.toNat < 32

/-- Both address operands fit their 5-bit fields. -/
def Instr.wf : Instr → Bool
  | .write p r _ => addrFits p && addrFits r
  | .read p r => addrFits p && addrFits r

end Sys2Proof
end

