-- ==== Sys2Proof/Decode.lean ====
section
/-! DEFINITION. The line decoder (R60) and, after it, the encoder (R50 to R53). The encoding of a command is its frame:
four preamble bytes, the two header bytes and two data bytes (30_encoding.md). -/

namespace Sys2Proof

/-- Why eight bytes are no frame of a command (R61, U18). -/
inductive DecodeError where
  /-- Not exactly eight bytes (R62). -/
  | badLength
  /-- A preamble byte other than `0xFF` (R50). -/
  | badPreamble
  /-- `ST` other than 01 (R61). -/
  | badStart
  /-- `OP` 00 or 11 (R61). -/
  | reservedOpcode
  /-- `TA` other than 10 (R61). -/
  | badTurnaround
deriving DecidableEq, Repr

/-- `PREAMBLE_BYTE` (R6, R65). -/
def preambleByte : Byte := 0xFF#8

/-- `DUMMY_BYTE` (R6, R65). -/
def dummyByte : Byte := 0x00#8

/-- The bits of the header word that tell the commands apart (R60, column mask). -/
def headerMask : BitVec 16 := 0xF003#16

/-- The masked header word of a kind (R60, column match). -/
def headerMatch : Kind → BitVec 16
  | .write => 0x5002#16
  | .read => 0x6002#16

/-- `PHYAD = H[11:7]` as an address operand (R52). -/
def phyField (h : BitVec 16) : BitVec 8 := (h.extractLsb' 7 5).setWidth 8

/-- `REGAD = H[6:2]` as an address operand (R52). -/
def regField (h : BitVec 16) : BitVec 8 := (h.extractLsb' 2 5).setWidth 8

/-- The name of what is wrong with a header word that matches neither row (R61): first `ST`, then `OP`, then `TA`. -/
def headerError (h : BitVec 16) : DecodeError :=
  if h.extractLsb' 14 2 ≠ 0b01#2 then .badStart
  else if h.extractLsb' 12 2 ≠ 0b01#2 ∧ h.extractLsb' 12 2 ≠ 0b10#2 then .reservedOpcode
  else .badTurnaround

/-- The opcode map of R60 applied to a header word; `data` is what stands in slots `B6` and `B7`, which only a `WRITE`
takes from the frame. -/
def decodeHeader (h data : BitVec 16) : Except DecodeError Instr :=
  if h &&& headerMask = headerMatch .write then .ok (.write (phyField h) (regField h) data)
  else if h &&& headerMask = headerMatch .read then .ok (.read (phyField h) (regField h))
  else .error (headerError h)

/-- The line decoder: total on any bytes. Four preamble bytes, then `H`, then the two data slots (R50, R60). In a `READ`
the last two slots belong to the PHY, so they are not looked at (R51). -/
def decodeFrame : List Byte → Except DecodeError Instr
  | [b0, b1, b2, b3, h1, h2, dh, dl] =>
    if b0 = preambleByte ∧ b1 = preambleByte ∧ b2 = preambleByte ∧ b3 = preambleByte then
      decodeHeader (h1 ++ h2) (dh ++ dl)
    else .error .badPreamble
  | _ => .error .badLength

/-- The frame of an instruction whose bits are `w` in the numbering of spec/opcode_table.json: the first 16-bit word is
the header word, the second the data word; on the line each word goes high byte first (R32, R52) behind the preamble. -/
def tableWordFrame (nbits w : Nat) : List Byte :=
  let v : BitVec 32 := BitVec.ofNat 32 (w % 2 ^ nbits)
  [preambleByte, preambleByte, preambleByte, preambleByte,
    v.extractLsb' 8 8, v.extractLsb' 0 8, v.extractLsb' 24 8, v.extractLsb' 16 8]

/-- The instruction the decoder reads from a word of the opcode table. -/
def decodeTableWord (nbits w : Nat) : Option Instr :=
  (decodeFrame (tableWordFrame nbits w)).toOption

/-! ### The encoder, from the field layout of R52 and R53 -/

/-- `OP` of a kind (R53). -/
def opField : Kind → BitVec 2
  | .write => 0b01#2
  | .read => 0b10#2

/-- The header word by fields: `ST`, `OP`, `PHYAD`, `REGAD`, `TA` (R52, R53). -/
def headerWord (k : Kind) (p r : BitVec 8) : BitVec 16 :=
  0b01#2 ++ opField k ++ p.extractLsb' 0 5 ++ r.extractLsb' 0 5 ++ 0b10#2

/-- The two bytes of slots `B6` and `B7` as the framer shifts them out (R51). -/
def dataSlots : Instr → List Byte
  | .write _ _ d => [d.extractLsb' 8 8, d.extractLsb' 0 8]
  | .read _ _ => [dummyByte, dummyByte]

/-- The eight bytes of a command's frame (R50, R51). -/
def encode (i : Instr) : List Byte :=
  let h := headerWord i.kind i.phyAddr i.regAddr
  [preambleByte, preambleByte, preambleByte, preambleByte, h.extractLsb' 8 8, h.extractLsb' 0 8] ++ dataSlots i

end Sys2Proof
end

