-- ==== Sys2Proof/Machine/State.lean ====
section
/-! DEFINITION. The state of the whole system as plain data (R10): the framer's latches and flags, the Serial Shift
Engine, the environment's part, the trace, and the inputs that the other agents supply. -/

namespace Sys2Proof.Machine

open Sys2Proof

/-- The sequencer state, the framer's program counter (R16): `seq = S` means that the step named `S` has not been taken. -/
inductive Seq where
  | idle
  | wDI | wOE | wP0 | wP1 | wP2 | wP3 | wH1 | wH2 | wDH | wDL | wOD | wEI
  | rOE | rDI | rP0 | rP1 | rP2 | rP3 | rH1 | rH2 | rOD | rRH | rRL | rEI | rRES
deriving DecidableEq, Repr

/-- The events of R8; `isr` is one run of an interrupt handler (R107, V15). `Return` is merged into the last event of a
command (R103). -/
inductive Event where
  | accept (i : Instr)
  | irqOff
  | irqOn
  | oeOn
  | oeOff
  | xfer (tx rx : Byte)
  | deliver (v : Word16)
  | isr
deriving DecidableEq, Repr

/-- One entry of the trace: the event with the values of `oe` and `ie` after it (R9; the columns of V9 and V11). -/
structure Entry where
  event : Event
  oe : Bool
  ie : Bool
deriving DecidableEq, Repr

/-- Configuration of the Serial Shift Engine and its pins (R21, R22); a direction is `true` for output. `BIT_ORDER` is a
constant and no field: `shiftCell` and `lineBits` hold it. -/
structure SseConfig where
  role : Role
  cpol : Bool
  cpha : Bool
  sckDiv : Nat
  enabled : Bool
  clockOut : Bool
  dataOut : Bool
  chipSelectOut : Bool
  pullUp : Bool
deriving DecidableEq, Repr

/-- What the host does next (R108); it has a step only while the framer is in `IDLE`. -/
inductive HostStep where
  /-- Runs `INIT` (R75). -/
  | init
  /-- Calls a command and blocks until it returns (R80): the whole command is one step of the system (log entry 13). -/
  | call (i : Instr)
  /-- Offers a command at the port (R59, R100): the step is the `Accept`, and each later step one event (log entry 13). -/
  | offer (i : Instr)
  /-- The console pseudo-command of the polling loop (R66): a call of `WRITE 0, 0, X_CMD_DATA`. -/
  | console (key : ConsoleKey)
  /-- A call of a command given by the bytes of its frame: the model's own entry for encoded words (log entry 16). -/
  | frame (bytes : List Byte)
  /-- Reads `rdata` (R15, R108). -/
  | readResult
  /-- Excluded software writes the interrupt-enable flag between commands (R131, R146; log entry 5). -/
  | setIe (b : Bool)
  /-- Any other step of the excluded software: it touches no element of R10. -/
  | other
deriving DecidableEq, Repr

/-- What the environment does next, between two steps of the host or the framer (R107, R126; log entry 8). -/
inductive EnvMove where
  /-- One handler runs and leaves `irq_pending` at `n`; enabled only while `ie = 1` (R124). -/
  | isr (n : Nat)
  /-- `irq_pending` becomes `n`: requests arrive or are lost, at any time (R24, R126). -/
  | pending (n : Nat)
  /-- The host or the framer moves next. -/
  | pass
deriving DecidableEq, Repr

/-- Why the machine stops. -/
inductive Fault where
  /-- A command, or a `TRANSCEIVE`, before `INIT` has configured the engine (R144, U1). Raised by the commands' meanings,
  by a command offered at the port and by a framer step that shifts a byte. Safe: the hardware may go on. -/
  | beforeInit
deriving DecidableEq, Repr

/-- Why an instruction gets no meaning. -/
inductive Refusal where
  /-- An instruction without a meaning in `exec`. Raised by no arm. Safe. -/
  | notModelled (mnemonic : String)
  /-- A command executed while another is in progress, as a handler's call would be (R130, U10, D26). Raised by the
  commands' meanings. Safe. -/
  | overlappingCommand
  /-- Eight bytes that are no frame of a command, above all a reserved header (R61, U18). Raised by the host step
  `frame`. Safe. -/
  | reservedFrame (e : DecodeError)
deriving DecidableEq, Repr

/-- The state of the system (R10). -/
structure State where
  /-- Transaction kind (R11). -/
  kind : Kind
  /-- Header byte 1 (R12). -/
  h1 : Byte
  /-- Header byte 2 (R12). -/
  h2 : Byte
  /-- Data of a `WRITE` (R13). -/
  wd : Word16
  /-- High byte received by a `READ` (R14). -/
  rxh : Byte
  /-- Low byte received by a `READ` (R14). -/
  rxl : Byte
  /-- Result register (R15). -/
  rdata : Word16
  /-- Sequencer state (R16). -/
  seq : Seq
  /-- Output enable of the bus driver (R17). -/
  oe : Bool
  /-- Global interrupt enable (R18). -/
  ie : Bool
  /-- Shift register of the engine (R20). -/
  sr : Byte
  /-- Completion flag of the engine (R20). -/
  sdone : Bool
  /-- Configuration of the engine (R21, R22). -/
  sse : SseConfig
  /-- Interrupt requests the environment holds (R24). -/
  irqPending : Nat
  /-- Events so far, oldest first (R25), empty after hardware reset and after `INIT` (R27). -/
  trace : List Entry
  /-- The model's own: the host's steps still to come (R26). -/
  hostIn : List HostStep
  /-- The model's own: values the host has read from `rdata`, oldest first (R15). -/
  hostGot : List Word16
  /-- The model's own: the PHY's answers still to come, one per `Xfer` (R26, R37). -/
  phyIn : List Byte
  /-- The model's own: how many received bytes were drawn freely (R37; log entry 10). -/
  draws : Nat
  /-- The model's own: the environment's moves still to come (R107, R126). -/
  envIn : List EnvMove
deriving DecidableEq, Repr

/-- The engine's configuration after hardware reset. DESIGN CHOICE (log entry 7): the spec leaves it unspecified (R27). -/
def SseConfig.reset : SseConfig where
  role := .slave
  cpol := false
  cpha := false
  sckDiv := 0
  enabled := false
  clockOut := false
  dataOut := false
  chipSelectOut := false
  pullUp := false

/-- The machine right after hardware reset (R27, R140): the sequencer is in `IDLE` and the trace is empty. Every other
element is unspecified there: DESIGN CHOICE, log entries 2 to 10. -/
def State.reset : State where
  kind := .read
  h1 := 0x00#8
  h2 := 0x00#8
  wd := 0x0000#16
  rxh := 0x00#8
  rxl := 0x00#8
  rdata := 0x0000#16
  seq := .idle
  oe := false
  ie := false
  sr := 0x00#8
  sdone := false
  sse := SseConfig.reset
  irqPending := 0
  trace := []
  hostIn := []
  hostGot := []
  phyIn := []
  draws := 0
  envIn := []

end Sys2Proof.Machine
end

