-- ==== Sys2Proof/Machine/Ops.lean ====
section
/-! DEFINITION. The operations every agent's steps are made of: the trace, the sequencer's advance, the Serial Shift
Engine's two primitives and the environment's moves. The spec gives the machine no exception, trap, vector or mode
(R120, R129, R131), so there is no exception entry or return here; the one run of a handler is `isrStep`. -/

namespace Sys2Proof.Machine

open Sys2Proof

/-- Appends an event to the trace with the flags as they are now, that is after the event's own write (R9, R25). -/
def emit (e : Event) (s : State) : State :=
  { s with trace := s.trace ++ [⟨e, s.oe, s.ie⟩] }

/-- `seq <- q` (R16). -/
def goto (q : Seq) (s : State) : State := { s with seq := q }

/-- `busy`: the framer is not in `IDLE` (R19). -/
def busy (s : State) : Bool := s.seq != .idle

/-! ### The Serial Shift Engine -/

/-- The configuration `INIT` writes (R75, R21, R22). -/
def sseAfterInit : SseConfig where
  role := Config.sseRole
  cpol := Config.sseCpol
  cpha := Config.sseCpha
  sckDiv := Config.sckDiv
  enabled := true
  clockOut := true
  dataOut := true
  chipSelectOut := true
  pullUp := true

/-- `INIT` has run: the engine is enabled, in master role, in the one legal clock mode, with its pins as outputs
(R142, R144). The divider has no value in the spec and is not looked at. -/
def sseReady (c : SseConfig) : Bool :=
  c.enabled && c.role == Config.sseRole && c.cpol == Config.sseCpol && c.cpha == Config.sseCpha
    && c.clockOut && c.dataOut && c.chipSelectOut

/-- `INIT` (R75): the configuration and, by the spec's decision D8, `oe <- 0`; the trace is empty after it (R27), as after
every `INIT` (DEDUCED, log entry 24). DESIGN CHOICE (log entry 6): it leaves `sr` and `sdone`, unspecified after it (R27). -/
def sseInit (s : State) : State := { s with sse := sseAfterInit, oe := false, trace := [] }

/-- The eight bits of a byte in line order, most significant first (R33). -/
def lineBits (b : BitVec 8) : List Bool :=
  [b.getLsbD 7, b.getLsbD 6, b.getLsbD 5, b.getLsbD 4, b.getLsbD 3, b.getLsbD 2, b.getLsbD 1, b.getLsbD 0]

/-- One bit-cell, full duplex: bit 7 of the shift register goes out, the sampled bit comes in at bit 0 (R70). -/
def shiftCell (sr : BitVec 8) (sampled : Bool) : Bool × BitVec 8 :=
  (sr.getLsbD 7, (sr <<< 1) ||| (BitVec.ofBool sampled).setWidth 8)

/-- Consecutive bit-cells: the bits that went out, and the shift register afterwards (R70). -/
def shiftCells : List Bool → BitVec 8 → List Bool × BitVec 8
  | [], sr => ([], sr)
  | b :: bs, sr =>
    let c := shiftCell sr b
    let r := shiftCells bs c.2
    (c.1 :: r.1, r.2)

/-- The byte the PHY puts on the line during the next `TRANSCEIVE` (R37): the next answer of its script, else a free
value. -/
def nextRx (s : State) : Byte :=
  match s.phyIn with
  | b :: _ => b
  | [] => Config.rxDraw s.draws

/-- The PHY's answer is used up (R72: the byte of a call is the byte shifted in during that call). -/
def dropRx (s : State) : State :=
  match s.phyIn with
  | _ :: bs => { s with phyIn := bs }
  | [] => { s with draws := s.draws + 1 }

/-- The engine loads a byte: `sr <- tx`, completion flag down (R70, R20). -/
def sseLoad (tx : Byte) (s : State) : State := { s with sr := tx, sdone := false }

/-- The engine shifts eight bit-cells while the line carries `rx`; completion flag up (R70, R20). -/
def sseShift (rx : Byte) (s : State) : State :=
  { s with sr := (shiftCells (lineBits rx) s.sr).2, sdone := true }

/-- The state after `TRANSCEIVE(tx)` (R70), one atomic event `Xfer(tx, rx)` (R106). The returned byte is `sr` (R20). -/
def transceive (tx : Byte) (s : State) : State :=
  let t := sseShift (nextRx s) (sseLoad tx (dropRx s))
  emit (.xfer tx t.sr) t

/-! ### The environment -/

/-- One run of an interrupt handler: opaque, it changes nothing but `irq_pending` (R107). -/
def isrStep (n : Nat) (s : State) : State := emit .isr { s with irqPending := n }

/-- The environment's next move where it has one that is enabled now; a handler is enabled only while `ie = 1` (R124),
else it is held off (R126). -/
def envMove (s : State) : Option State :=
  match s.envIn with
  | .isr n :: ms => if s.ie then some (isrStep n { s with envIn := ms }) else none
  | .pending n :: ms => some { s with envIn := ms, irqPending := n }
  | .pass :: _ => none
  | [] => none

/-- The environment lets the host or the framer move. -/
def envPass (s : State) : State :=
  match s.envIn with
  | .pass :: ms => { s with envIn := ms }
  | _ => s

/-- All enabled moves of a script, up to the one that lets the others move. -/
def envDrainList : List EnvMove → State → State
  | [], s => { s with envIn := [] }
  | .isr n :: ms, s =>
    if s.ie then envDrainList ms (isrStep n s) else { s with envIn := .isr n :: ms }
  | .pending n :: ms, s => envDrainList ms { s with irqPending := n }
  | .pass :: ms, s => { s with envIn := ms }

/-- All enabled moves of the environment before the next event of a command (R107, R125). -/
def envDrain (s : State) : State := envDrainList s.envIn s

end Sys2Proof.Machine
end

