-- ==== Sys2Proof/Machine/Operands.lean ====
section
/-! DEFINITION. Operand assembly: the header bytes (R54, R55), the halves of the write data (R57), the read result
(R58), under the constant names of R65. -/

namespace Sys2Proof.Machine

open Sys2Proof

/-- `ST_BITS` (R65). -/
def stBits : BitVec 8 := 0x40#8
/-- `OP_WRITE_BITS` (R65). -/
def opWriteBits : BitVec 8 := 0x10#8
/-- `OP_READ_BITS` (R65). -/
def opReadBits : BitVec 8 := 0x20#8
/-- `TA_BITS` (R65). -/
def taBits : BitVec 8 := 0x02#8
/-- `PHY_HI_MASK` (R65). -/
def phyHiMask : BitVec 8 := 0x0F#8
/-- `PHY_LO_MASK` (R65). -/
def phyLoMask : BitVec 8 := 0x01#8
/-- `REG_MASK` (R65). -/
def regMask : BitVec 8 := 0x7C#8

/-- The opcode bits of header byte 1 (R54). -/
def opBits : Kind → BitVec 8
  | .write => opWriteBits
  | .read => opReadBits

/-- Header byte 1 (R54); nothing is checked, the mask drops the operand's high bits (R56). -/
def headerByte1 (k : Kind) (phyAddr : BitVec 8) : BitVec 8 :=
  stBits ||| opBits k ||| ((phyAddr >>> 1) &&& phyHiMask)

/-- Header byte 2, the same for both kinds (R55). -/
def headerByte2 (phyAddr regAddr : BitVec 8) : BitVec 8 :=
  ((phyAddr &&& phyLoMask) <<< 7) ||| ((regAddr <<< 2) &&& regMask) ||| taBits

/-- `dataHigh`, sent in slot `B6` (R57). -/
def dataHigh (d : BitVec 16) : BitVec 8 := d.extractLsb' 8 8

/-- `dataLow`, sent in slot `B7` (R57). -/
def dataLow (d : BitVec 16) : BitVec 8 := d.extractLsb' 0 8

/-- The result of a read, high byte first, both bytes zero-extended before the shift (R58). -/
def composeResult (high low : BitVec 8) : BitVec 16 := (high.setWidth 16 <<< 8) ||| low.setWidth 16

end Sys2Proof.Machine
end

