-- ==== Sys2Proof/Machine/Flags.lean ====
section
/-! DEFINITION. The two flags of R17 and R18 and the four events that write them (R8). Nothing in the framer reads
either. -/

namespace Sys2Proof.Machine

open Sys2Proof

/-- `IrqOff`: `ie <- 0` (R8, R18). -/
def irqOff (s : State) : State := emit .irqOff { s with ie := false }

/-- `IrqOn`: `ie <- 1`, whatever it was at entry (R127). -/
def irqOn (s : State) : State := emit .irqOn { s with ie := true }

/-- `OeOn`: `oe <- 1` (R8, R17). -/
def oeOn (s : State) : State := emit .oeOn { s with oe := true }

/-- `OeOff`: `oe <- 0` (R8, R17). -/
def oeOff (s : State) : State := emit .oeOff { s with oe := false }

/-- The level of the output-enable pin, for a reader who goes below the event (R7, `OE_ACTIVE_LEVEL`); no rule reads it. -/
def oePinLevel (s : State) : Bool := if s.oe then Config.oeActiveLevel else !Config.oeActiveLevel

end Sys2Proof.Machine
end

