-- ==== Sys2Proof/Machine/Sequencer.lean ====
section
/-! DEFINITION. The sequencer: `Accept` and the transitions of the write path and the read path, one event each
(42_sequencer_fsm.md). -/

namespace Sys2Proof.Machine

open Sys2Proof

/-- `Accept` (R101): the operands are sampled here and nowhere else (R46), the header is packed (R82), the path is
chosen (R102). A `READ` leaves `wd`. -/
def accept (i : Instr) (s : State) : State :=
  match i with
  | .write p r d =>
    emit (.accept i) { s with kind := .write, h1 := headerByte1 .write p, h2 := headerByte2 p r, wd := d, seq := .wDI }
  | .read p r =>
    emit (.accept i) { s with kind := .read, h1 := headerByte1 .read p, h2 := headerByte2 p r, seq := .rOE }

/-- The seventh `Xfer` of a read: the dummy byte, the answer kept in `rxh` (R14, R105 row 10). -/
def receiveHigh (s : State) : State :=
  let t := transceive dummyByte s
  { t with rxh := t.sr }

/-- The eighth `Xfer` of a read: the dummy byte, the answer kept in `rxl` (R14, R105 row 11). -/
def receiveLow (s : State) : State :=
  let t := transceive dummyByte s
  { t with rxl := t.sr }

/-- `Deliver`: `rdata <- (rxh << 8) | rxl`, handed to the host (R15, R105 row 13). -/
def deliver (s : State) : State :=
  emit (.deliver (composeResult s.rxh s.rxl)) { s with rdata := composeResult s.rxh s.rxl }

/-- The framer's one transition in each sequencer state (R104, R105); in `IDLE` it has none. The received byte of every
`Xfer` but a read's last two is dropped (R14). -/
def framerAct (s : State) : State :=
  match s.seq with
  | .idle => s
  | .wDI => goto .wOE (irqOff s)
  | .wOE => goto .wP0 (oeOn s)
  | .wP0 => goto .wP1 (transceive preambleByte s)
  | .wP1 => goto .wP2 (transceive preambleByte s)
  | .wP2 => goto .wP3 (transceive preambleByte s)
  | .wP3 => goto .wH1 (transceive preambleByte s)
  | .wH1 => goto .wH2 (transceive s.h1 s)
  | .wH2 => goto .wDH (transceive s.h2 s)
  | .wDH => goto .wDL (transceive (dataHigh s.wd) s)
  | .wDL => goto .wOD (transceive (dataLow s.wd) s)
  | .wOD => goto .wEI (oeOff s)
  | .wEI => goto .idle (irqOn s)
  | .rOE => goto .rDI (oeOn s)
  | .rDI => goto .rP0 (irqOff s)
  | .rP0 => goto .rP1 (transceive preambleByte s)
  | .rP1 => goto .rP2 (transceive preambleByte s)
  | .rP2 => goto .rP3 (transceive preambleByte s)
  | .rP3 => goto .rH1 (transceive preambleByte s)
  | .rH1 => goto .rH2 (transceive s.h1 s)
  | .rH2 => goto .rOD (transceive s.h2 s)
  | .rOD => goto .rRH (oeOff s)
  | .rRH => goto .rRL (receiveHigh s)
  | .rRL => goto .rEI (receiveLow s)
  | .rEI => goto .rRES (irqOn s)
  | .rRES => goto .idle (deliver s)

/-- The sixteen states whose transition is an `Xfer` (R106). -/
def shifts : Seq → Bool
  | .wP0 | .wP1 | .wP2 | .wP3 | .wH1 | .wH2 | .wDH | .wDL => true
  | .rP0 | .rP1 | .rP2 | .rP3 | .rH1 | .rH2 | .rRH | .rRL => true
  | .idle | .wDI | .wOE | .wOD | .wEI | .rOE | .rDI | .rOD | .rEI | .rRES => false

/-- One framer step. A `TRANSCEIVE` on an engine that `INIT` has not configured is a fault (R144, U1); after `INIT` every
framer step yields a next state (R71, R114). -/
def framerStep (s : State) : Host.Outcome State Fault Refusal :=
  if shifts s.seq && !sseReady s.sse then .fault .beforeInit else .next (framerAct s)

/-- `k` events of the framer, the environment's enabled moves before each (R107, R125). -/
def framerRun : Nat → State → State
  | 0, s => s
  | k + 1, s => framerRun k (framerAct (envDrain s))

end Sys2Proof.Machine
end

