-- ==== Sys2Proof/Machine/Mdio.lean ====
section
/-! DEFINITION. The meanings of the two commands as blocking calls (R80): `Accept`, then every event of the command's
trace (R86, R92), with the handler runs the environment makes where `ie = 1` lets it (R125). -/

namespace Sys2Proof.Machine

open Sys2Proof

/-- A called command: a fault before `INIT` (R144), a refusal while another command is in progress (R130, U10), else
`Accept` and the `k` events of its path back to `IDLE` (R110). -/
def runCommand (i : Instr) (k : Nat) (s : State) : Host.Outcome State Fault Refusal :=
  if !sseReady s.sse then .fault .beforeInit
  else if busy s then .refused .overlappingCommand
  else .next (framerRun k (accept i s))

/-- `WRITE phyAddr, regAddr, data`: the twelve events of R86. -/
def execWrite (p r : AddrOperand) (d : Word16) (s : State) : Host.Outcome State Fault Refusal :=
  runCommand (.write p r d) 12 s

/-- `READ phyAddr, regAddr`: the thirteen events of R92. -/
def execRead (p r : AddrOperand) (s : State) : Host.Outcome State Fault Refusal :=
  runCommand (.read p r) 13 s

end Sys2Proof.Machine
end

