-- ==== Sys2Proof/Machine/Dispatch.lean ====
section
/-! DEFINITION. One arm per command. -/

namespace Sys2Proof.Machine

open Sys2Proof

def exec (i : Instr) (s : State) : Host.Outcome State Fault Refusal :=
  match i with
  | .write p r d => Sys2Proof.Machine.execWrite p r d s
  | .read p r => Sys2Proof.Machine.execRead p r s

end Sys2Proof.Machine
end

