-- ==== Sys2Proof/Machine/Agents.lean ====
section
/-! DEFINITION. The host's steps (R108) and the choice of the agent that moves next (R5). -/

namespace Sys2Proof.Machine

open Sys2Proof

/-- The expansion of the console pseudo-command (R66). -/
def consoleWrite (key : ConsoleKey) : Instr := .write 0x00#8 0x00#8 (Config.xCmdData key)

/-- A command offered at the port in `IDLE` (R100): the `Accept`, or a fault before `INIT` (R144). -/
def offerCommand (i : Instr) (s : State) : Host.Outcome State Fault Refusal :=
  if sseReady s.sse then .next (accept i s) else .fault .beforeInit

/-- A command given by the bytes of its frame: decoded, then called; a reserved frame is refused (U18). -/
def callFrame (bytes : List Byte) (s : State) : Host.Outcome State Fault Refusal :=
  match decodeFrame bytes with
  | .ok i => exec i s
  | .error e => .refused (.reservedFrame e)

/-- One step of the host, in `IDLE` only (R108). A host with nothing to do leaves the framer waiting (R141). -/
def hostStep (s : State) : Host.Outcome State Fault Refusal :=
  match s.hostIn with
  | [] => .next s
  | .init :: rest => .next (sseInit { s with hostIn := rest })
  | .call i :: rest => exec i { s with hostIn := rest }
  | .offer i :: rest => offerCommand i { s with hostIn := rest }
  | .console key :: rest => exec (consoleWrite key) { s with hostIn := rest }
  | .frame bytes :: rest => callFrame bytes { s with hostIn := rest }
  | .readResult :: rest => .next { s with hostIn := rest, hostGot := s.hostGot ++ [s.rdata] }
  | .setIe b :: rest => .next { s with hostIn := rest, ie := b }
  | .other :: rest => .next { s with hostIn := rest }

/-- One step of the system: an enabled move of the environment, else the framer's step while `busy`, else the host's
(R100, R107, R108). -/
def systemStep (s : State) : Host.Outcome State Fault Refusal :=
  match envMove s with
  | some t => .next t
  | none => if busy s then framerStep (envPass s) else hostStep (envPass s)

/-- `s` with the engine configured as `INIT` leaves it and the given frame as the host's next call, the environment letting the host move first; what
`withFetchWord` needs so that the next step runs the instruction (log entry 16). -/
def withFrame (s : State) (bytes : List Byte) : State :=
  { s with seq := .idle, sse := sseAfterInit, envIn := .pass :: s.envIn, hostIn := .frame bytes :: s.hostIn }

end Sys2Proof.Machine
end

