-- ==== Sys2Proof/Machine/Line.lean ====
section
/-! DEFINITION. What a reader below the event level sees (R33, R50, R74): the bit-cells of the line, computed from the
trace. A view of the state: nothing in the machine reads it. -/

namespace Sys2Proof.Machine

open Sys2Proof

/-- The byte an event sends, where it is an `Xfer`. -/
def sentByte : Entry → Option Byte
  | ⟨.xfer tx _, _, _⟩ => some tx
  | _ => none

/-- The bytes shifted out by the `Xfer` events of a trace, in order. -/
def sentBytes (es : List Entry) : List Byte := es.filterMap sentByte

/-- The bit-cells of one event: the eight bits the engine shifts out, each on the line only while `oe = 1` (R74). -/
def entryCells : Entry → List (Option Bool)
  | ⟨.xfer tx rx, oe, _⟩ => (shiftCells (lineBits rx) tx).1.map fun b => if oe then some b else none
  | _ => []

/-- The bit-cells the controller puts on the line during a trace; `none` where it does not drive (R50, V19). -/
def lineCells (es : List Entry) : List (Option Bool) := es.flatMap entryCells

end Sys2Proof.Machine
end

