-- ==== Sys2Proof/Machine/Step.lean ====
section
/-! DEFINITION. One step of the machine, and where it fetches its next instruction. -/

namespace Sys2Proof.Machine

open Sys2Proof

/-- One step of the whole system. -/
def step (s : State) : Host.Outcome State Fault Refusal := systemStep s

/-- `s` with the instruction of an opcode-table word placed as the host's next call, engine configured (log entry 16). -/
def State.withFetchWord (s : State) (nbits w : Nat) : State := withFrame s (tableWordFrame nbits w)

end Sys2Proof.Machine
end

