-- ==== Sys2Proof/Safety.lean ====
section
/-! DEFINITION. The terms the claims are stated in: the table of the flags (R112), the laws a trace entry obeys (R97,
R124), the agreement of path, kind and header (R61, R102), the stream of the PHY's answers (R37). -/

namespace Sys2Proof.Machine

open Sys2Proof

/-- A command can be called: `INIT` has run and the framer is in `IDLE` (R100, R144). -/
abbrev CanCall (s : State) : Prop := sseReady s.sse = true ∧ s.seq = .idle

/-- `oe` before the transition of each sequencer state (R112). -/
def expectedOe : Seq → Bool
  | .idle | .wDI | .wOE | .wEI | .rOE | .rRH | .rRL | .rEI | .rRES => false
  | .wP0 | .wP1 | .wP2 | .wP3 | .wH1 | .wH2 | .wDH | .wDL | .wOD => true
  | .rDI | .rP0 | .rP1 | .rP2 | .rP3 | .rH1 | .rH2 | .rOD => true

/-- `ie` before the transition of each sequencer state, where R112 fixes it; `none` where it is the entry value. -/
def expectedIe : Seq → Option Bool
  | .idle | .wDI | .rOE | .rDI => none
  | .wOE | .wP0 | .wP1 | .wP2 | .wP3 | .wH1 | .wH2 | .wDH | .wDL | .wOD | .wEI => some false
  | .rP0 | .rP1 | .rP2 | .rP3 | .rH1 | .rH2 | .rOD | .rRH | .rRL | .rEI => some false
  | .rRES => some true

/-- The flags stand as R112 says. -/
abbrev FlagsAgree (s : State) : Prop :=
  s.oe = expectedOe s.seq ∧ (expectedIe s.seq = none ∨ expectedIe s.seq = some s.ie)

/-- The kind of the path a sequencer state lies on (R16, R102). -/
def pathKind : Seq → Option Kind
  | .idle => none
  | .wDI | .wOE | .wP0 | .wP1 | .wP2 | .wP3 | .wH1 | .wH2 | .wDH | .wDL | .wOD | .wEI => some .write
  | .rOE | .rDI | .rP0 | .rP1 | .rP2 | .rP3 | .rH1 | .rH2 | .rOD | .rRH | .rRL | .rEI | .rRES => some .read

/-- While a command is in progress the engine is configured, the path is that of `kind` and the latched header word is
one of the two patterns of R60, that of `kind` (R61, R102). -/
abbrev CommandAgrees (s : State) : Prop :=
  s.seq = .idle ∨
    (sseReady s.sse = true ∧ pathKind s.seq = some s.kind ∧ (s.h1 ++ s.h2) &&& headerMask = headerMatch s.kind)

/-- What each entry of a trace obeys: every `Xfer` is masked, and undriven only with the dummy byte (R97 b, c, d); a
handler runs only while `ie = 1` (R124); the flag events leave their flag as R8 says; a command is accepted with the
driver off (R111) and a result delivered with interrupts on (R95). -/
def entryLawful (e : Entry) : Bool :=
  match e.event with
  | .accept _ => !e.oe
  | .irqOff => !e.ie
  | .irqOn => e.ie
  | .oeOn => e.oe
  | .oeOff => !e.oe
  | .xfer tx _ => !e.ie && (e.oe || tx == dummyByte)
  | .deliver _ => e.ie && !e.oe
  | .isr => e.ie

/-- Every entry of the trace is lawful. -/
abbrev TraceLawful (s : State) : Prop := s.trace.all entryLawful = true

/-- The byte the PHY answers to the `Xfer` number `k` from state `s` on (R37): its script, then free values. -/
def rxAt (s : State) (k : Nat) : Byte :=
  match s.phyIn[k]? with
  | some b => b
  | none => Config.rxDraw (s.draws + (k - s.phyIn.length))

/-- The entries `t` has beyond the trace of `s`. -/
def newEntries (s t : State) : List Entry := t.trace.drop s.trace.length

/-- `n` handler runs with the flags as given. -/
def isrRuns (n : Nat) (oe ie : Bool) : List Entry := List.replicate n ⟨.isr, oe, ie⟩

/-- The command whose operands have only their low five bits (R56). -/
def canonical : Instr → Instr
  | .write p r d => .write (p &&& 0x1F#8) (r &&& 0x1F#8) d
  | .read p r => .read (p &&& 0x1F#8) (r &&& 0x1F#8)

/-- An event without what the PHY answered. -/
def blindEvent : Event → Event
  | .xfer tx _ => .xfer tx 0x00#8
  | .deliver _ => .deliver 0x0000#16
  | .accept i => .accept i
  | .irqOff => .irqOff
  | .irqOn => .irqOn
  | .oeOn => .oeOn
  | .oeOff => .oeOff
  | .isr => .isr

/-- A trace entry without what the PHY answered. -/
def blindEntry (e : Entry) : Entry := { e with event := blindEvent e.event }

/-- A state without what the PHY answered or will answer (R109). -/
def blind (s : State) : State :=
  { s with
    rxh := 0x00#8
    rxl := 0x00#8
    rdata := 0x0000#16
    sr := 0x00#8
    phyIn := []
    draws := 0
    trace := s.trace.map blindEntry }

/-- `s` after the engine has moved one byte each way: the PHY's answer in `sr`, the completion flag up (log entry 6), one
answer used up (log entry 10). -/
def shifted (s : State) : State :=
  { s with sr := rxAt s 0, sdone := true, phyIn := s.phyIn.drop 1, draws := s.draws + (1 - s.phyIn.length) }

/-- One row of the tables R104 and R105: the framer's step in `s` gives exactly `t`, which holds the row's action, with
`seq` at the next state and the event recorded with the flags after it. -/
def RowHolds (s : State) (e : Event) (next : Seq) (t : State) : Prop :=
  framerStep s = .next { t with seq := next, trace := s.trace ++ [⟨e, t.oe, t.ie⟩] }

/-- The command the host's next step calls and runs to its end (log entry 13), where it is such a step. -/
def calledCommand (s : State) : Option Instr :=
  match s.hostIn with
  | .call i :: _ => some i
  | .console key :: _ => some (consoleWrite key)
  | .frame bytes :: _ => (decodeFrame bytes).toOption
  | .offer _ :: _ => none
  | .init :: _ => none
  | .readResult :: _ => none
  | .setIe _ :: _ => none
  | .other :: _ => none
  | [] => none

/-- The command whose `Accept` the host's next step is or begins with: one it calls, or one it offers at the port. -/
def nextCommand (s : State) : Option Instr :=
  match s.hostIn with
  | .offer i :: _ => some i
  | _ => calledCommand s

end Sys2Proof.Machine
end

