-- ==== Sys2Proof/Certificates/Slice0/Obligations.lean ====
section
/-! DEFINITION. The statements for the provers, each from a numbered rule of spec/ or from the sections its docstring
names. The machine holds no memory (R30, R31), so a frame lists fields only. `CanCall s` says that `INIT` has run and the
framer is in `IDLE`; nothing is assumed of the operands, of `ie`, `oe` or of any latch. -/

open Sys2Proof Sys2Proof.Machine

/-! ### Encoding -/

/-- Decoding the frame of a command whose operands fit their fields gives the command back (R50, R52, R53). -/
def Obligations.DecodeOfEncodeIsTheCommand : Prop :=
  ∀ i : Instr, i.wf = true → decodeFrame (encode i) = .ok i

/-- A frame that decodes is eight bytes, its command's operands fit, and the encoder gives its preamble and header back;
for a `WRITE` all eight bytes (R50, R60). A `READ`'s last two slots are the PHY's (R51): that the decoder takes exactly
eight bytes and does not look at those two is the model's reading (log entry 17). -/
def Obligations.DecodedFrameEncodesBack : Prop :=
  ∀ (bs : List Byte) (i : Instr), decodeFrame bs = .ok i →
    bs.length = 8 ∧ i.wf = true ∧ (encode i).take 6 = bs.take 6 ∧ (i.kind = .write → encode i = bs)

/-- Header words written out from the patterns of R60 and the table of V8. That a table word stands for a frame, with the
data word zero where it has 16 bits and in bits 31 to 16 where it has 32, is the model's reading (log entry 23). -/
def Obligations.WordsOfTheSpecDecode : Prop :=
  decodeTableWord 16 0x5002 = some (.write 0x00#8 0x00#8 0x0000#16) ∧
  decodeTableWord 16 0x587E = some (.write 0x10#8 0x1F#8 0x0000#16) ∧
  decodeTableWord 16 0x6FFE = some (.read 0x1F#8 0x1F#8) ∧
  decodeTableWord 16 0x608A = some (.read 0x01#8 0x02#8) ∧
  decodeTableWord 32 0x55AA587E = some (.write 0x10#8 0x1F#8 0x55AA#16)

/-- A frame whose header has another `ST`, a reserved `OP` or another `TA` is refused by name, and so is a call given by
its bytes. That a line decoder refuses such headers is the spec's treatment (R61, derived; U18); the names and their order
are the model's choice (log entry 17), and so is the call of a command given by bytes (log entry 16), which the spec does
not have. -/
def Obligations.ReservedHeadersAreRefused : Prop :=
  ∀ (h1 h2 d1 d2 : BitVec 8) (s : State),
    let H : BitVec 16 := h1 ++ h2
    let bs := [0xFF#8, 0xFF#8, 0xFF#8, 0xFF#8, h1, h2, d1, d2]
    let refusedAs := fun e => decodeFrame bs = .error e ∧ callFrame bs s = .refused (.reservedFrame e)
    (H.extractLsb' 14 2 ≠ 0b01#2 → refusedAs .badStart) ∧
    (H.extractLsb' 14 2 = 0b01#2 → (H.extractLsb' 12 2 = 0b00#2 ∨ H.extractLsb' 12 2 = 0b11#2) →
      refusedAs .reservedOpcode) ∧
    (H.extractLsb' 14 2 = 0b01#2 → (H.extractLsb' 12 2 = 0b01#2 ∨ H.extractLsb' 12 2 = 0b10#2) →
      H.extractLsb' 0 2 ≠ 0b10#2 → refusedAs .badTurnaround)

/-- The header word the framer packs by the byte formulas has the fields of R52, and its bits go on the line from `H[15]`
to `H[0]`. -/
def Obligations.HeaderWordHasTheFields : Prop :=
  ∀ (k : Kind) (p r : BitVec 8),
    let H : BitVec 16 := headerByte1 k p ++ headerByte2 p r
    H = headerWord k p r ∧
    H.extractLsb' 14 2 = 0b01#2 ∧ H.extractLsb' 12 2 = (if k = .write then 0b01#2 else 0b10#2) ∧
    H.extractLsb' 8 4 = p.extractLsb' 1 4 ∧ H.getLsbD 7 = p.getLsbD 0 ∧ H.extractLsb' 2 5 = r.extractLsb' 0 5 ∧
    H.extractLsb' 0 2 = 0b10#2 ∧
    lineBits (headerByte1 k p) ++ lineBits (headerByte2 p r) = (List.range 16).map fun n => H.getLsbD (15 - n)

/-- The two header bytes after a command are those of R54 and R55, computed on unbounded naturals, with the constant bits
and the ranges those rules name; the terms are disjoint, so that `|` may be read as `+`, and the masked shift keeps exactly
the low five bits of an operand of any width. -/
def Obligations.HeaderBytesFollowTheFormulas : Prop :=
  ∀ (p r : BitVec 8) (d : Word16) (s : State), CanCall s →
    let low := ((p.toNat &&& 0x01) <<< 7) ||| ((r.toNat <<< 2) &&& 0x7C) ||| 0x02
    (∃ t, exec (.write p r d) s = .next t ∧ t.h1.toNat = 0x40 ||| 0x10 ||| ((p.toNat >>> 1) &&& 0x0F) ∧
      t.h2.toNat = low ∧ t.h1.getLsbD 7 = false ∧ 0x50 ≤ t.h1.toNat ∧ t.h1.toNat ≤ 0x5F ∧
      t.h2.getLsbD 0 = false ∧ t.h2.getLsbD 1 = true) ∧
    (∃ t, exec (.read p r) s = .next t ∧ t.h1.toNat = 0x40 ||| 0x20 ||| ((p.toNat >>> 1) &&& 0x0F) ∧
      t.h2.toNat = low ∧ t.h1.getLsbD 7 = false ∧ 0x60 ≤ t.h1.toNat ∧ t.h1.toNat ≤ 0x6F ∧
      t.h2.getLsbD 0 = false ∧ t.h2.getLsbD 1 = true) ∧
    headerByte1 .write p = 0x40#8 + 0x10#8 + ((p >>> 1) &&& 0x0F#8) ∧
    headerByte1 .read p = 0x40#8 + 0x20#8 + ((p >>> 1) &&& 0x0F#8) ∧
    headerByte2 p r = ((p &&& 0x01#8) <<< 7) + ((r <<< 2) &&& 0x7C#8) + 0x02#8 ∧
    ∀ n : Nat, (n <<< 2) &&& 0x7C = (n &&& 0x1F) <<< 2

/-- Bits 7 to 5 of an address operand have no effect on a command but in the record of its own `Accept` (30_encoding.md
section 3, the masking law the spec derives). -/
def Obligations.HighOperandBitsHaveNoEffect : Prop :=
  ∀ (p p' r r' : AddrOperand) (d : Word16) (s : State), CanCall s →
    p.extractLsb' 0 5 = p'.extractLsb' 0 5 → r.extractLsb' 0 5 = r'.extractLsb' 0 5 →
    (∃ t t', exec (.write p r d) s = .next t ∧ exec (.write p' r' d) s = .next t' ∧
      { t with trace := (newEntries s t).tail } = { t' with trace := (newEntries s t').tail }) ∧
    (∃ t t', exec (.read p r) s = .next t ∧ exec (.read p' r') s = .next t' ∧
      { t with trace := (newEntries s t).tail } = { t' with trace := (newEntries s t').tail })

/-! ### WRITE -/

/-- The trace of a `WRITE` is its `Accept`, any handler runs (none when `ie = 0`), then exactly the twelve events of R86
with the flags it gives, and the state it leaves. The first event and the exit `ie <- 1` are the spec's decisions D5 and
D6, the dropped bytes D10, the unchanged `rdata` D12, the latches and `seq` D3. The answers' script is log entry 10, the
flags in an entry those after its event by log entry 18. -/
def Obligations.WriteEmitsItsTrace : Prop :=
  ∀ (p r : AddrOperand) (d : Word16) (s : State), CanCall s →
    ∃ t n, exec (.write p r d) s = .next t ∧ (s.ie = false → n = 0) ∧
      t.trace = s.trace ++ [⟨.accept (.write p r d), s.oe, s.ie⟩] ++ isrRuns n s.oe s.ie ++
        [⟨.irqOff, s.oe, false⟩, ⟨.oeOn, true, false⟩,
         ⟨.xfer 0xFF#8 (rxAt s 0), true, false⟩, ⟨.xfer 0xFF#8 (rxAt s 1), true, false⟩,
         ⟨.xfer 0xFF#8 (rxAt s 2), true, false⟩, ⟨.xfer 0xFF#8 (rxAt s 3), true, false⟩,
         ⟨.xfer (headerByte1 .write p) (rxAt s 4), true, false⟩, ⟨.xfer (headerByte2 p r) (rxAt s 5), true, false⟩,
         ⟨.xfer (d.extractLsb' 8 8) (rxAt s 6), true, false⟩, ⟨.xfer (d.extractLsb' 0 8) (rxAt s 7), true, false⟩,
         ⟨.oeOff, false, false⟩, ⟨.irqOn, false, true⟩] ∧
      t.seq = .idle ∧ t.oe = false ∧ t.ie = true ∧
      t.kind = .write ∧ t.h1 = headerByte1 .write p ∧ t.h2 = headerByte2 p r ∧ t.wd = d ∧
      t.rxh = s.rxh ∧ t.rxl = s.rxl ∧ t.rdata = s.rdata

/-- The frame of `WRITE`: it writes `kind`, `h1`, `h2`, `wd`, `seq`, `oe`, `ie`, `sr`, `sdone` and the trace, to which it
only appends. The received bytes, the result, the engine's configuration and the host's inputs stay; the environment's
script and the PHY's answers are only used up (log entries 8 and 10). That `rxh`, `rxl` and `rdata` stay is the spec's
decision D12. -/
def Obligations.WriteLeavesTheRest : Prop :=
  ∀ (p r : AddrOperand) (d : Word16) (s t : State), exec (.write p r d) s = .next t →
    t.rxh = s.rxh ∧ t.rxl = s.rxl ∧ t.rdata = s.rdata ∧ t.sse = s.sse ∧ t.hostIn = s.hostIn ∧
    t.hostGot = s.hostGot ∧ s.trace <+: t.trace ∧ t.envIn <:+ s.envIn ∧ t.phyIn = s.phyIn.drop 8 ∧
    t.draws = s.draws + (8 - s.phyIn.length) ∧ (s.envIn = [] → t.irqPending = s.irqPending)

/-- The data of a `WRITE` goes high byte first, whole and unchanged, in slots `B6` and `B7` (R57). -/
def Obligations.WriteDataGoesHighByteFirst : Prop :=
  ∀ (p r : AddrOperand) (d : Word16) (s : State), CanCall s →
    ∃ t hi lo, exec (.write p r d) s = .next t ∧
      (sentBytes (newEntries s t)).drop 6 = [hi, lo] ∧
      hi = d.extractLsb' 8 8 ∧ lo = d.extractLsb' 0 8 ∧
      hi.toNat = (d.toNat >>> 8) &&& 0xFF ∧ lo.toNat = d.toNat &&& 0xFF

/-- In a `WRITE`, `OeOn` comes before the first preamble byte, `OeOff` after the last data byte and before `IrqOn`;
`oe = 1` at all eight `Xfer` events and 0 when the command returns (R88). The flags `ie = 0` at `OeOn` and `ie = 1` after
`IrqOn` are the spec's decisions D5 and D6. -/
def Obligations.WriteDrivesAllEightBytes : Prop :=
  ∀ (p r : AddrOperand) (d : Word16) (s : State), CanCall s →
    ∃ t before frame, exec (.write p r d) s = .next t ∧
      newEntries s t = before ++ [⟨.oeOn, true, false⟩] ++ frame ++ [⟨.oeOff, false, false⟩, ⟨.irqOn, false, true⟩] ∧
      sentBytes before = [] ∧ frame.length = 8 ∧ (∀ e ∈ frame, e.oe = true ∧ (sentByte e).isSome = true) ∧
      frame.filterMap sentByte = encode (.write p r d) ∧ t.oe = false

/-! ### READ -/

/-- The trace of a `READ` is its `Accept` and exactly the thirteen events of R92 in order, with handler runs only where
`ie = 1`: before `OeOn`, between `OeOn` and `IrqOff`, and before `Deliver`; and the state it leaves. The exit `ie <- 1` is
the spec's decision D6, the latches and `seq` D3, the dropped bytes D10, `Deliver` as a step of its own D24. The answers'
script is log entry 10, the flags in an entry those after its event by log entry 18. -/
def Obligations.ReadEmitsItsTrace : Prop :=
  ∀ (p r : AddrOperand) (s : State), CanCall s →
    ∃ t n m k, exec (.read p r) s = .next t ∧ (s.ie = false → n = 0 ∧ m = 0) ∧
      t.trace = s.trace ++ [⟨.accept (.read p r), s.oe, s.ie⟩] ++ isrRuns n s.oe s.ie ++
        [⟨.oeOn, true, s.ie⟩] ++ isrRuns m true s.ie ++
        [⟨.irqOff, true, false⟩,
         ⟨.xfer 0xFF#8 (rxAt s 0), true, false⟩, ⟨.xfer 0xFF#8 (rxAt s 1), true, false⟩,
         ⟨.xfer 0xFF#8 (rxAt s 2), true, false⟩, ⟨.xfer 0xFF#8 (rxAt s 3), true, false⟩,
         ⟨.xfer (headerByte1 .read p) (rxAt s 4), true, false⟩, ⟨.xfer (headerByte2 p r) (rxAt s 5), true, false⟩,
         ⟨.oeOff, false, false⟩,
         ⟨.xfer 0x00#8 (rxAt s 6), false, false⟩, ⟨.xfer 0x00#8 (rxAt s 7), false, false⟩,
         ⟨.irqOn, false, true⟩] ++ isrRuns k false true ++
        [⟨.deliver (rxAt s 6 ++ rxAt s 7), false, true⟩] ∧
      t.seq = .idle ∧ t.oe = false ∧ t.ie = true ∧
      t.kind = .read ∧ t.h1 = headerByte1 .read p ∧ t.h2 = headerByte2 p r ∧ t.wd = s.wd ∧
      t.rxh = rxAt s 6 ∧ t.rxl = rxAt s 7 ∧ t.rdata = rxAt s 6 ++ rxAt s 7

/-- The frame of `READ`: it writes `kind`, `h1`, `h2`, `rxh`, `rxl`, `rdata`, `seq`, `oe`, `ie`, `sr`, `sdone` and the
trace, to which it only appends. `wd` (R13), the engine's configuration and the host's inputs stay; the environment's
script and the PHY's answers are only used up (log entries 8 and 10). -/
def Obligations.ReadLeavesTheRest : Prop :=
  ∀ (p r : AddrOperand) (s t : State), exec (.read p r) s = .next t →
    t.wd = s.wd ∧ t.sse = s.sse ∧ t.hostIn = s.hostIn ∧ t.hostGot = s.hostGot ∧ s.trace <+: t.trace ∧
    t.envIn <:+ s.envIn ∧ t.phyIn = s.phyIn.drop 8 ∧ t.draws = s.draws + (8 - s.phyIn.length) ∧
    (s.envIn = [] → t.irqPending = s.irqPending)

/-- The result of a `READ` is `(highByte << 8) | lowByte` of the bytes answered in slots `B6` and `B7`, zero-extended,
whatever the six bytes before were (R58). That `Deliver` is the last event and stands after `ie <- 1` for either entry
value rests on the spec's decisions D6 and D24. -/
def Obligations.ReadResultIsTheTwoAnswers : Prop :=
  ∀ (p r : AddrOperand) (s : State), CanCall s →
    ∃ t, exec (.read p r) s = .next t ∧ t.rxh = rxAt s 6 ∧ t.rxl = rxAt s 7 ∧
      t.rdata.toNat = (rxAt s 6).toNat * 256 + (rxAt s 7).toNat ∧
      t.rdata.toNat = ((rxAt s 6).toNat <<< 8) ||| (rxAt s 7).toNat ∧
      t.trace.getLast? = some ⟨.deliver t.rdata, false, true⟩

/-- In a `READ`, `OeOff` comes directly after the `Xfer` of header byte 2, at which `oe` is still 1, and directly before
the first dummy `Xfer` (R93). -/
def Obligations.ReadReleasesAfterHeaderByteTwo : Prop :=
  ∀ (p r : AddrOperand) (s : State), CanCall s →
    ∃ t before after, exec (.read p r) s = .next t ∧
      newEntries s t = before ++
        [⟨.xfer (headerByte2 p r) (rxAt s 5), true, false⟩, ⟨.oeOff, false, false⟩,
         ⟨.xfer 0x00#8 (rxAt s 6), false, false⟩] ++ after ∧
      (sentBytes before).length = 5 ∧ (∀ e ∈ before, (sentByte e).isSome = true → e.oe = true) ∧
      sentBytes after = [0x00#8] ∧ (∀ e ∈ after, e.oe = false)

/-! ### Both commands -/

/-- The bytes a command shifts out are its encoding, and the line decoder reads from them the command with its operands
cut to five bits (R51, R60). -/
def Obligations.SentFrameIsTheEncoding : Prop :=
  ∀ (i : Instr) (s : State), CanCall s →
    ∃ t, exec i s = .next t ∧ sentBytes (newEntries s t) = encode i ∧
      decodeFrame (sentBytes (newEntries s t)) = .ok (canonical i)

/-- The 64 bit-cells of a command on the line, most significant bit of each byte first: a `WRITE` drives all 64, a `READ`
the first 48 and leaves the last 16 alone (R50; the bit order and the wiring are the spec's decisions D9 and
D19, the view is the model's, log entry 19). -/
def Obligations.LineCarriesTheFrame : Prop :=
  ∀ (i : Instr) (s : State), CanCall s →
    ∃ t, exec i s = .next t ∧ (lineCells (newEntries s t)).length = 64 ∧
      lineCells (newEntries s t) =
        match i with
        | .write _ _ _ => ((encode i).flatMap lineBits).map some
        | .read _ _ => (((encode i).take 6).flatMap lineBits).map some ++ List.replicate 16 none

/-- What the PHY answers steers nothing: two callable states alike but for received and coming answers give, for one
command, states alike but for those, with the same events, flags and sent bytes (R106, R109, R40). -/
def Obligations.AnswersSteerNothing : Prop :=
  ∀ (i : Instr) (s s' : State), CanCall s → CanCall s' → blind s = blind s' →
    ∃ t t', exec i s = .next t ∧ exec i s' = .next t' ∧ blind t = blind t'

/-- Before `INIT` a command, called or offered, and a framer step that shifts a byte end in the fault `beforeInit`
(the spec's decision D27, U1). Which configurations count as `INIT` having run, and that an offer faults at once, is the
model's reading (log entry 20). -/
def Obligations.CommandBeforeInitFaults : Prop :=
  ∀ (i : Instr) (s : State), sseReady s.sse = false →
    exec i s = .fault .beforeInit ∧ offerCommand i s = .fault .beforeInit ∧
    (shifts s.seq = true → framerStep s = .fault .beforeInit)

/-- A command executed while another is in progress is refused, whichever it is and wherever the other stands (the
spec's decision D26, U10; log entry 21). -/
def Obligations.OverlappingCommandIsRefused : Prop :=
  ∀ (i : Instr) (s : State), sseReady s.sse = true → s.seq ≠ .idle → exec i s = .refused .overlappingCommand

/-! ### The sequencer -/

/-- `Accept` at the port (R101): the latches take the operands, `seq` the path, one event is recorded, the offer and the
environment's pass are taken; every other field stays, `wd` too for a `READ`. Latches and path names are the spec's
decision D3, the sampling here D4, the script of offers is log entry 9. -/
def Obligations.AcceptLatchesTheOperands : Prop :=
  ∀ (s : State) (rest : List HostStep) (p r : AddrOperand), CanCall s → envMove s = none →
    (∀ d : Word16, s.hostIn = .offer (.write p r d) :: rest → step s = .next
      { s with
        kind := .write
        h1 := headerByte1 .write p
        h2 := headerByte2 p r
        wd := d
        seq := .wDI
        trace := s.trace ++ [⟨.accept (.write p r d), s.oe, s.ie⟩]
        hostIn := rest
        envIn := (envPass s).envIn }) ∧
    (s.hostIn = .offer (.read p r) :: rest → step s = .next
      { s with
        kind := .read
        h1 := headerByte1 .read p
        h2 := headerByte2 p r
        seq := .rOE
        trace := s.trace ++ [⟨.accept (.read p r), s.oe, s.ie⟩]
        hostIn := rest
        envIn := (envPass s).envIn })

/-- The twelve transitions of the write path (R104), each with its event, action and successor, nothing else written.
An `Xfer` also writes the engine's own fields (`shifted`: log entries 6 and 10). The named states are the spec's decision
D3, the first row D5, the dropped bytes D10, the last row D6. -/
def Obligations.WritePathTransitions : Prop :=
  ∀ s : State, sseReady s.sse = true →
    (s.seq = .wDI → RowHolds s .irqOff .wOE { s with ie := false }) ∧
    (s.seq = .wOE → RowHolds s .oeOn .wP0 { s with oe := true }) ∧
    (s.seq = .wP0 → RowHolds s (.xfer 0xFF#8 (rxAt s 0)) .wP1 (shifted s)) ∧
    (s.seq = .wP1 → RowHolds s (.xfer 0xFF#8 (rxAt s 0)) .wP2 (shifted s)) ∧
    (s.seq = .wP2 → RowHolds s (.xfer 0xFF#8 (rxAt s 0)) .wP3 (shifted s)) ∧
    (s.seq = .wP3 → RowHolds s (.xfer 0xFF#8 (rxAt s 0)) .wH1 (shifted s)) ∧
    (s.seq = .wH1 → RowHolds s (.xfer s.h1 (rxAt s 0)) .wH2 (shifted s)) ∧
    (s.seq = .wH2 → RowHolds s (.xfer s.h2 (rxAt s 0)) .wDH (shifted s)) ∧
    (s.seq = .wDH → RowHolds s (.xfer (s.wd.extractLsb' 8 8) (rxAt s 0)) .wDL (shifted s)) ∧
    (s.seq = .wDL → RowHolds s (.xfer (s.wd.extractLsb' 0 8) (rxAt s 0)) .wOD (shifted s)) ∧
    (s.seq = .wOD → RowHolds s .oeOff .wEI { s with oe := false }) ∧
    (s.seq = .wEI → RowHolds s .irqOn .idle { s with ie := true })

/-- The thirteen transitions of the read path (R105), each with its event, action and successor, nothing else written.
An `Xfer` also writes the engine's own fields (`shifted`: log entries 6 and 10). The named states are the spec's decision
D3, the dropped bytes D10, the exit `ie <- 1` D6, the last two rows D24. -/
def Obligations.ReadPathTransitions : Prop :=
  ∀ s : State, sseReady s.sse = true →
    (s.seq = .rOE → RowHolds s .oeOn .rDI { s with oe := true }) ∧
    (s.seq = .rDI → RowHolds s .irqOff .rP0 { s with ie := false }) ∧
    (s.seq = .rP0 → RowHolds s (.xfer 0xFF#8 (rxAt s 0)) .rP1 (shifted s)) ∧
    (s.seq = .rP1 → RowHolds s (.xfer 0xFF#8 (rxAt s 0)) .rP2 (shifted s)) ∧
    (s.seq = .rP2 → RowHolds s (.xfer 0xFF#8 (rxAt s 0)) .rP3 (shifted s)) ∧
    (s.seq = .rP3 → RowHolds s (.xfer 0xFF#8 (rxAt s 0)) .rH1 (shifted s)) ∧
    (s.seq = .rH1 → RowHolds s (.xfer s.h1 (rxAt s 0)) .rH2 (shifted s)) ∧
    (s.seq = .rH2 → RowHolds s (.xfer s.h2 (rxAt s 0)) .rOD (shifted s)) ∧
    (s.seq = .rOD → RowHolds s .oeOff .rRH { s with oe := false }) ∧
    (s.seq = .rRH → RowHolds s (.xfer 0x00#8 (rxAt s 0)) .rRL { shifted s with rxh := rxAt s 0 }) ∧
    (s.seq = .rRL → RowHolds s (.xfer 0x00#8 (rxAt s 0)) .rEI { shifted s with rxl := rxAt s 0 }) ∧
    (s.seq = .rEI → RowHolds s .irqOn .rRES { s with ie := true }) ∧
    (s.seq = .rRES → RowHolds s (.deliver (s.rxh ++ s.rxl)) .idle { s with rdata := s.rxh ++ s.rxl })

/-- While a command is in progress on a configured engine every step of the system gives a next state: no fault, no
refusal, no stop (R71, R114; the blind spot of a hanging engine is the spec's decision D14, log entry 14). -/
def Obligations.BusyStepsAlwaysGoOn : Prop :=
  ∀ s : State, sseReady s.sse = true → s.seq ≠ .idle →
    ∃ t, step s = .next t ∧ (envMove s = none → step s = framerStep (envPass s))

/-- With a quiet environment an offered command returns after exactly its `Accept` and its 12 or 13 framer steps, in the
state its call gives in one step (42_sequencer_fsm.md section 5, V14). That a call is one step is log entry 13. -/
def Obligations.OfferedCommandReturnsOnTime : Prop :=
  ∀ (s : State) (rest : List HostStep) (p r : AddrOperand), CanCall s → s.envIn = [] →
    (∀ d : Word16, s.hostIn = .offer (.write p r d) :: rest → ∃ t,
      Host.Core.run Sys2Proof.core 13 s = .next t ∧ exec (.write p r d) { s with hostIn := rest } = .next t) ∧
    (s.hostIn = .offer (.read p r) :: rest → ∃ t,
      Host.Core.run Sys2Proof.core 14 s = .next t ∧ exec (.read p r) { s with hostIn := rest } = .next t)

/-- Whatever the environment does, a command offered at the port reaches, one event a step, the very state its call gives
in one step (42_sequencer_fsm.md section 5; log entry 13). -/
def Obligations.OfferedCommandRefinesTheCall : Prop :=
  ∀ (s : State) (i : Instr) (rest : List HostStep), CanCall s → envMove s = none → s.hostIn = .offer i :: rest →
    ∃ k t, Host.Core.run Sys2Proof.core k s = .next t ∧ exec i { envPass s with hostIn := rest } = .next t

/-! ### Agents -/

/-- When the host's next entry is a call, or a frame that decodes, and the environment lets it move, the step is `exec` of
that command on the state with the entry taken. That a call is one whole step is the model's choice (log entry 13), and so
is the call of a command by the eight bytes of its frame (log entry 16). -/
def Obligations.StepRunsTheDecodedCommand : Prop :=
  ∀ (s : State) (i : Instr) (rest : List HostStep), s.seq = .idle → envMove s = none →
    (s.hostIn = .call i :: rest → step s = exec i { envPass s with hostIn := rest }) ∧
    (∀ bs, s.hostIn = .frame bs :: rest → decodeFrame bs = .ok i →
      step s = exec i { envPass s with hostIn := rest })

/-- A word placed by `withFetchWord` is what the next step runs, on the state with the engine configured. `withFetchWord` and
the call by bytes it uses are the model's choice (log entry 16), that a call is one step too (log entry 13), and the frame a
table word stands for is the model's reading (log entry 23). -/
def Obligations.PlacedWordIsRunNext : Prop :=
  ∀ (s : State) (nbits w : Nat) (i : Instr), decodeTableWord nbits w = some i →
    step (s.withFetchWord nbits w) = exec i { s with seq := .idle, sse := sseAfterInit } ∧
    ∃ t, step (s.withFetchWord nbits w) = .next t

/-- While `busy` the host has no step: its script, what it got, and the engine's configuration stay (the spec's decision
D11). -/
def Obligations.HostWaitsWhileBusy : Prop :=
  ∀ s t : State, s.seq ≠ .idle → step s = .next t →
    t.hostIn = s.hostIn ∧ t.hostGot = s.hostGot ∧ t.sse = s.sse

/-- A handler that is the environment's next move runs exactly when `ie = 1`, whatever `seq` is, and then changes
`irq_pending` alone; with `ie = 0` it is held off and the framer moves while busy, else the host (R124). That the moves
behind a held-off handler wait with it is the model's choice (log entry 8). That it changes `irq_pending` alone is the
spec's decisions D15 and D26. -/
def Obligations.HandlerRunsOnlyWhileEnabled : Prop :=
  ∀ (s : State) (n : Nat) (ms : List EnvMove), s.envIn = .isr n :: ms →
    (s.ie = true → step s =
      .next { s with envIn := ms, irqPending := n, trace := s.trace ++ [⟨.isr, s.oe, true⟩] }) ∧
    (s.ie = false → step s = if busy s then framerStep s else hostStep s)

/-- `INIT` as a host step: the configuration of R75, `oe <- 0` (decision D8), the trace empty (R27; that every `INIT`
empties it is inferred, log entry 24), `ie` and every latch as before; run twice it is as run once. That it leaves `sr` and
`sdone` is the model's choice (log entry 6). -/
def Obligations.InitConfiguresTheEngine : Prop :=
  ∀ (s : State) (rest : List HostStep), s.seq = .idle → envMove s = none → s.hostIn = .init :: rest →
    ∃ t, step s = .next t ∧
      t = { envPass s with hostIn := rest, sse := sseAfterInit, oe := false, trace := [] } ∧
      t.sse.role = .master ∧ t.sse.cpol = true ∧ t.sse.cpha = true ∧ t.sse.clockOut = true ∧
      t.sse.dataOut = true ∧ t.sse.chipSelectOut = true ∧ t.sse.pullUp = true ∧
      t.ie = s.ie ∧ sseReady t.sse = true ∧ sseInit t = t

/-- Nothing but `INIT` changes the engine's configuration, and a configured engine stays configured
(40_serial_shift_engine.md section 2). -/
def Obligations.OnlyInitConfigures : Prop :=
  ∀ s t : State, step s = .next t →
    (t.sse = s.sse ∨ ∃ rest, s.seq = .idle ∧ s.hostIn = .init :: rest ∧ t.sse = sseAfterInit) ∧
    (sseReady s.sse = true → sseReady t.sse = true)

/-- `TRANSCEIVE(tx)` sends the eight bits of `tx` from bit 7 on, leaves the byte sampled meanwhile in `sr` with the
completion flag up, records one `Xfer`, uses up one answer, and touches no flag, latch, sequencer state or input
(40_serial_shift_engine.md section 1; bit order by the spec's decision D9). The completion flag's value after the call is
the model's inference (log entry 6), the script of answers and its counter its choice (log entry 10). -/
def Obligations.TransceiveIsFullDuplex : Prop :=
  ∀ (tx : Byte) (s : State),
    (shiftCells (lineBits (rxAt s 0)) tx).1 = lineBits tx ∧
    (transceive tx s).sr = rxAt s 0 ∧ (transceive tx s).sdone = true ∧
    (∀ k, rxAt (transceive tx s) k = rxAt s (k + 1)) ∧
    transceive tx s =
      { s with
        sr := rxAt s 0
        sdone := true
        phyIn := s.phyIn.drop 1
        draws := s.draws + (1 - s.phyIn.length)
        trace := s.trace ++ [⟨.xfer tx (rxAt s 0), s.oe, s.ie⟩] }

/-- What a step can change, and where: `rdata` by `Deliver`, `rxh` and `rxl` by the last two `Xfer` of a read, `sr` and
`sdone` by an `Xfer`, `oe` by `OeOn` and `OeOff`, `ie` by `IrqOff` and `IrqOn`, each as the framer's step or inside a command
that the host calls; besides, `oe` by `INIT` (decision D8) and `ie` by excluded software (log entry 5). `wd` changes by the
`Accept` of a `WRITE` alone, `kind` and the header by an `Accept` alone, called or offered (R11 to R15, R17, R18, R20, R154;
decisions D3 and D12). That a called command is one step is log entry 13. -/
def Obligations.LatchesHaveOneWriter : Prop :=
  ∀ s t : State, step s = .next t →
    let called := fun i => s.seq = .idle ∧ calledCommand s = some i
    let accepted := fun i => s.seq = .idle ∧ nextCommand s = some i
    (t.rdata ≠ s.rdata → s.seq = .rRES ∨ ∃ i, called i ∧ i.kind = .read) ∧
    (t.rxh ≠ s.rxh → s.seq = .rRH ∨ ∃ i, called i ∧ i.kind = .read) ∧
    (t.rxl ≠ s.rxl → s.seq = .rRL ∨ ∃ i, called i ∧ i.kind = .read) ∧
    (t.sr ≠ s.sr ∨ t.sdone ≠ s.sdone → shifts s.seq = true ∨ ∃ i, called i) ∧
    (t.oe ≠ s.oe → s.seq ∈ [.wOE, .wOD, .rOE, .rOD] ∨ (∃ i, called i) ∨
      s.seq = .idle ∧ ∃ rest, s.hostIn = .init :: rest) ∧
    (t.ie ≠ s.ie → s.seq ∈ [.wDI, .wEI, .rDI, .rEI] ∨ (∃ i, called i) ∨
      s.seq = .idle ∧ ∃ rest, s.hostIn = .setIe t.ie :: rest) ∧
    (t.wd ≠ s.wd → ∃ i, accepted i ∧ i.kind = .write) ∧
    (t.kind ≠ s.kind ∨ t.h1 ≠ s.h1 ∨ t.h2 ≠ s.h2 → ∃ i, accepted i)

/-- The host reads in `rdata` the result of the last `READ`, and changes nothing by reading it (10_state.md section 2). That
such a read also gives the register's value, and does not stop, before any `READ` has completed is the model's choice (log
entry 3): there R27 and R114 say that it must fault in a model. -/
def Obligations.HostReadsTheResult : Prop :=
  ∀ (s : State) (rest : List HostStep), s.seq = .idle → envMove s = none → s.hostIn = .readResult :: rest →
    step s = .next { envPass s with hostIn := rest, hostGot := s.hostGot ++ [s.rdata] }

/-- Between two commands the excluded software may set or clear `ie`, and its other steps touch nothing (R131, R108): a
write of `ie` in the host's script is the model's inference (log entry 5). -/
def Obligations.ExcludedSoftwareWritesOnlyIe : Prop :=
  ∀ (s : State) (rest : List HostStep), s.seq = .idle → envMove s = none →
    (∀ b : Bool, s.hostIn = .setIe b :: rest → step s = .next { envPass s with hostIn := rest, ie := b }) ∧
    (s.hostIn = .other :: rest → step s = .next { envPass s with hostIn := rest })

/-- The console characters run a `WRITE` of the open value `X_CMD_DATA` with the header `0x50`, `0x02`
(30_encoding.md section 5), for every value of that parameter (the spec's decision D21; log entry 11). That one step runs
the whole `WRITE` and sends all eight bytes is the model's choice (log entry 13). -/
def Obligations.ConsoleWritesToRegisterZero : Prop :=
  ∀ (s : State) (key : ConsoleKey) (rest : List HostStep), CanCall s → envMove s = none →
    s.hostIn = .console key :: rest →
    ∃ t, step s = .next t ∧ t.h1 = 0x50#8 ∧ t.h2 = 0x02#8 ∧ t.wd = Config.xCmdData key ∧
      sentBytes (newEntries s t) =
        [0xFF#8, 0xFF#8, 0xFF#8, 0xFF#8, 0x50#8, 0x02#8,
         (Config.xCmdData key).extractLsb' 8 8, (Config.xCmdData key).extractLsb' 0 8]

/-! ### Invariants and reset -/

/-- Every step keeps the flags as the table of 42_sequencer_fsm.md section 5 gives them in each sequencer state (the
spec's derived table, with `oe = 0` in `IDLE`). -/
def Obligations.FlagTableIsKept : Prop :=
  ∀ s t : State, FlagsAgree s → step s = .next t → FlagsAgree t

/-- Every step keeps the trace lawful: every byte is shifted with `ie = 0`, undriven bytes are dummies, handlers run only
with `ie = 1`, commands are accepted with the driver off, results delivered with interrupts on. -/
def Obligations.TraceStaysLawful : Prop :=
  ∀ s t : State, FlagsAgree s → TraceLawful s → step s = .next t → FlagsAgree t ∧ TraceLawful t

/-- Every step keeps the agreement of path, kind, header pattern and configured engine: while a command is in progress the
latched header word is one of the two patterns of R60, that of the path. -/
def Obligations.CommandAgreementIsKept : Prop :=
  ∀ s t : State, CommandAgrees s → step s = .next t → CommandAgrees t

/-- The state after reset meets the three invariants; `oe = 0` there is the model's choice (log entry 4). -/
def Obligations.ResetMeetsTheInvariants : Prop :=
  FlagsAgree State.reset ∧ TraceLawful State.reset ∧ CommandAgrees State.reset

/-- After reset the framer is in `IDLE` with an empty trace and waits: with no host step and a quiet environment (the
model's choice, log entries 8 and 9) a step changes nothing (the spec's decision D25). -/
def Obligations.ResetWaitsInIdle : Prop :=
  State.reset.seq = .idle ∧ busy State.reset = false ∧ State.reset.trace = [] ∧
  step State.reset = .next State.reset ∧
  ∀ s : State, s.seq = .idle → s.hostIn = [] → s.envIn = [] → step s = .next s
end

