-- ==== Sys2Proof/Laws/State.lean ====
section
/-! SUPPORT. One lemma per field per update: what each plain operation of the machine leaves in each field. -/

namespace Sys2Proof.Machine

open Sys2Proof

@[simp] theorem emit_kind (e : Event) (s : State) : (emit e s).kind = s.kind := rfl
@[simp] theorem emit_h1 (e : Event) (s : State) : (emit e s).h1 = s.h1 := rfl
@[simp] theorem emit_h2 (e : Event) (s : State) : (emit e s).h2 = s.h2 := rfl
@[simp] theorem emit_wd (e : Event) (s : State) : (emit e s).wd = s.wd := rfl
@[simp] theorem emit_rxh (e : Event) (s : State) : (emit e s).rxh = s.rxh := rfl
@[simp] theorem emit_rxl (e : Event) (s : State) : (emit e s).rxl = s.rxl := rfl
@[simp] theorem emit_rdata (e : Event) (s : State) : (emit e s).rdata = s.rdata := rfl
@[simp] theorem emit_seq (e : Event) (s : State) : (emit e s).seq = s.seq := rfl
@[simp] theorem emit_oe (e : Event) (s : State) : (emit e s).oe = s.oe := rfl
@[simp] theorem emit_ie (e : Event) (s : State) : (emit e s).ie = s.ie := rfl
@[simp] theorem emit_sr (e : Event) (s : State) : (emit e s).sr = s.sr := rfl
@[simp] theorem emit_sdone (e : Event) (s : State) : (emit e s).sdone = s.sdone := rfl
@[simp] theorem emit_sse (e : Event) (s : State) : (emit e s).sse = s.sse := rfl
@[simp] theorem emit_irqPending (e : Event) (s : State) : (emit e s).irqPending = s.irqPending := rfl
@[simp] theorem emit_trace (e : Event) (s : State) : (emit e s).trace = s.trace ++ [⟨e, s.oe, s.ie⟩] := rfl
@[simp] theorem emit_hostIn (e : Event) (s : State) : (emit e s).hostIn = s.hostIn := rfl
@[simp] theorem emit_hostGot (e : Event) (s : State) : (emit e s).hostGot = s.hostGot := rfl
@[simp] theorem emit_phyIn (e : Event) (s : State) : (emit e s).phyIn = s.phyIn := rfl
@[simp] theorem emit_draws (e : Event) (s : State) : (emit e s).draws = s.draws := rfl
@[simp] theorem emit_envIn (e : Event) (s : State) : (emit e s).envIn = s.envIn := rfl

@[simp] theorem goto_kind (q : Seq) (s : State) : (goto q s).kind = s.kind := rfl
@[simp] theorem goto_h1 (q : Seq) (s : State) : (goto q s).h1 = s.h1 := rfl
@[simp] theorem goto_h2 (q : Seq) (s : State) : (goto q s).h2 = s.h2 := rfl
@[simp] theorem goto_wd (q : Seq) (s : State) : (goto q s).wd = s.wd := rfl
@[simp] theorem goto_rxh (q : Seq) (s : State) : (goto q s).rxh = s.rxh := rfl
@[simp] theorem goto_rxl (q : Seq) (s : State) : (goto q s).rxl = s.rxl := rfl
@[simp] theorem goto_rdata (q : Seq) (s : State) : (goto q s).rdata = s.rdata := rfl
@[simp] theorem goto_seq (q : Seq) (s : State) : (goto q s).seq = q := rfl
@[simp] theorem goto_oe (q : Seq) (s : State) : (goto q s).oe = s.oe := rfl
@[simp] theorem goto_ie (q : Seq) (s : State) : (goto q s).ie = s.ie := rfl
@[simp] theorem goto_sr (q : Seq) (s : State) : (goto q s).sr = s.sr := rfl
@[simp] theorem goto_sdone (q : Seq) (s : State) : (goto q s).sdone = s.sdone := rfl
@[simp] theorem goto_sse (q : Seq) (s : State) : (goto q s).sse = s.sse := rfl
@[simp] theorem goto_irqPending (q : Seq) (s : State) : (goto q s).irqPending = s.irqPending := rfl
@[simp] theorem goto_trace (q : Seq) (s : State) : (goto q s).trace = s.trace := rfl
@[simp] theorem goto_hostIn (q : Seq) (s : State) : (goto q s).hostIn = s.hostIn := rfl
@[simp] theorem goto_hostGot (q : Seq) (s : State) : (goto q s).hostGot = s.hostGot := rfl
@[simp] theorem goto_phyIn (q : Seq) (s : State) : (goto q s).phyIn = s.phyIn := rfl
@[simp] theorem goto_draws (q : Seq) (s : State) : (goto q s).draws = s.draws := rfl
@[simp] theorem goto_envIn (q : Seq) (s : State) : (goto q s).envIn = s.envIn := rfl

@[simp] theorem irqOff_kind (s : State) : (irqOff s).kind = s.kind := rfl
@[simp] theorem irqOff_h1 (s : State) : (irqOff s).h1 = s.h1 := rfl
@[simp] theorem irqOff_h2 (s : State) : (irqOff s).h2 = s.h2 := rfl
@[simp] theorem irqOff_wd (s : State) : (irqOff s).wd = s.wd := rfl
@[simp] theorem irqOff_rxh (s : State) : (irqOff s).rxh = s.rxh := rfl
@[simp] theorem irqOff_rxl (s : State) : (irqOff s).rxl = s.rxl := rfl
@[simp] theorem irqOff_rdata (s : State) : (irqOff s).rdata = s.rdata := rfl
@[simp] theorem irqOff_seq (s : State) : (irqOff s).seq = s.seq := rfl
@[simp] theorem irqOff_oe (s : State) : (irqOff s).oe = s.oe := rfl
@[simp] theorem irqOff_ie (s : State) : (irqOff s).ie = false := rfl
@[simp] theorem irqOff_sr (s : State) : (irqOff s).sr = s.sr := rfl
@[simp] theorem irqOff_sdone (s : State) : (irqOff s).sdone = s.sdone := rfl
@[simp] theorem irqOff_sse (s : State) : (irqOff s).sse = s.sse := rfl
@[simp] theorem irqOff_irqPending (s : State) : (irqOff s).irqPending = s.irqPending := rfl
@[simp] theorem irqOff_trace (s : State) : (irqOff s).trace = s.trace ++ [⟨.irqOff, s.oe, false⟩] := rfl
@[simp] theorem irqOff_hostIn (s : State) : (irqOff s).hostIn = s.hostIn := rfl
@[simp] theorem irqOff_hostGot (s : State) : (irqOff s).hostGot = s.hostGot := rfl
@[simp] theorem irqOff_phyIn (s : State) : (irqOff s).phyIn = s.phyIn := rfl
@[simp] theorem irqOff_draws (s : State) : (irqOff s).draws = s.draws := rfl
@[simp] theorem irqOff_envIn (s : State) : (irqOff s).envIn = s.envIn := rfl

@[simp] theorem irqOn_kind (s : State) : (irqOn s).kind = s.kind := rfl
@[simp] theorem irqOn_h1 (s : State) : (irqOn s).h1 = s.h1 := rfl
@[simp] theorem irqOn_h2 (s : State) : (irqOn s).h2 = s.h2 := rfl
@[simp] theorem irqOn_wd (s : State) : (irqOn s).wd = s.wd := rfl
@[simp] theorem irqOn_rxh (s : State) : (irqOn s).rxh = s.rxh := rfl
@[simp] theorem irqOn_rxl (s : State) : (irqOn s).rxl = s.rxl := rfl
@[simp] theorem irqOn_rdata (s : State) : (irqOn s).rdata = s.rdata := rfl
@[simp] theorem irqOn_seq (s : State) : (irqOn s).seq = s.seq := rfl
@[simp] theorem irqOn_oe (s : State) : (irqOn s).oe = s.oe := rfl
@[simp] theorem irqOn_ie (s : State) : (irqOn s).ie = true := rfl
@[simp] theorem irqOn_sr (s : State) : (irqOn s).sr = s.sr := rfl
@[simp] theorem irqOn_sdone (s : State) : (irqOn s).sdone = s.sdone := rfl
@[simp] theorem irqOn_sse (s : State) : (irqOn s).sse = s.sse := rfl
@[simp] theorem irqOn_irqPending (s : State) : (irqOn s).irqPending = s.irqPending := rfl
@[simp] theorem irqOn_trace (s : State) : (irqOn s).trace = s.trace ++ [⟨.irqOn, s.oe, true⟩] := rfl
@[simp] theorem irqOn_hostIn (s : State) : (irqOn s).hostIn = s.hostIn := rfl
@[simp] theorem irqOn_hostGot (s : State) : (irqOn s).hostGot = s.hostGot := rfl
@[simp] theorem irqOn_phyIn (s : State) : (irqOn s).phyIn = s.phyIn := rfl
@[simp] theorem irqOn_draws (s : State) : (irqOn s).draws = s.draws := rfl
@[simp] theorem irqOn_envIn (s : State) : (irqOn s).envIn = s.envIn := rfl

@[simp] theorem oeOn_kind (s : State) : (oeOn s).kind = s.kind := rfl
@[simp] theorem oeOn_h1 (s : State) : (oeOn s).h1 = s.h1 := rfl
@[simp] theorem oeOn_h2 (s : State) : (oeOn s).h2 = s.h2 := rfl
@[simp] theorem oeOn_wd (s : State) : (oeOn s).wd = s.wd := rfl
@[simp] theorem oeOn_rxh (s : State) : (oeOn s).rxh = s.rxh := rfl
@[simp] theorem oeOn_rxl (s : State) : (oeOn s).rxl = s.rxl := rfl
@[simp] theorem oeOn_rdata (s : State) : (oeOn s).rdata = s.rdata := rfl
@[simp] theorem oeOn_seq (s : State) : (oeOn s).seq = s.seq := rfl
@[simp] theorem oeOn_oe (s : State) : (oeOn s).oe = true := rfl
@[simp] theorem oeOn_ie (s : State) : (oeOn s).ie = s.ie := rfl
@[simp] theorem oeOn_sr (s : State) : (oeOn s).sr = s.sr := rfl
@[simp] theorem oeOn_sdone (s : State) : (oeOn s).sdone = s.sdone := rfl
@[simp] theorem oeOn_sse (s : State) : (oeOn s).sse = s.sse := rfl
@[simp] theorem oeOn_irqPending (s : State) : (oeOn s).irqPending = s.irqPending := rfl
@[simp] theorem oeOn_trace (s : State) : (oeOn s).trace = s.trace ++ [⟨.oeOn, true, s.ie⟩] := rfl
@[simp] theorem oeOn_hostIn (s : State) : (oeOn s).hostIn = s.hostIn := rfl
@[simp] theorem oeOn_hostGot (s : State) : (oeOn s).hostGot = s.hostGot := rfl
@[simp] theorem oeOn_phyIn (s : State) : (oeOn s).phyIn = s.phyIn := rfl
@[simp] theorem oeOn_draws (s : State) : (oeOn s).draws = s.draws := rfl
@[simp] theorem oeOn_envIn (s : State) : (oeOn s).envIn = s.envIn := rfl

@[simp] theorem oeOff_kind (s : State) : (oeOff s).kind = s.kind := rfl
@[simp] theorem oeOff_h1 (s : State) : (oeOff s).h1 = s.h1 := rfl
@[simp] theorem oeOff_h2 (s : State) : (oeOff s).h2 = s.h2 := rfl
@[simp] theorem oeOff_wd (s : State) : (oeOff s).wd = s.wd := rfl
@[simp] theorem oeOff_rxh (s : State) : (oeOff s).rxh = s.rxh := rfl
@[simp] theorem oeOff_rxl (s : State) : (oeOff s).rxl = s.rxl := rfl
@[simp] theorem oeOff_rdata (s : State) : (oeOff s).rdata = s.rdata := rfl
@[simp] theorem oeOff_seq (s : State) : (oeOff s).seq = s.seq := rfl
@[simp] theorem oeOff_oe (s : State) : (oeOff s).oe = false := rfl
@[simp] theorem oeOff_ie (s : State) : (oeOff s).ie = s.ie := rfl
@[simp] theorem oeOff_sr (s : State) : (oeOff s).sr = s.sr := rfl
@[simp] theorem oeOff_sdone (s : State) : (oeOff s).sdone = s.sdone := rfl
@[simp] theorem oeOff_sse (s : State) : (oeOff s).sse = s.sse := rfl
@[simp] theorem oeOff_irqPending (s : State) : (oeOff s).irqPending = s.irqPending := rfl
@[simp] theorem oeOff_trace (s : State) : (oeOff s).trace = s.trace ++ [⟨.oeOff, false, s.ie⟩] := rfl
@[simp] theorem oeOff_hostIn (s : State) : (oeOff s).hostIn = s.hostIn := rfl
@[simp] theorem oeOff_hostGot (s : State) : (oeOff s).hostGot = s.hostGot := rfl
@[simp] theorem oeOff_phyIn (s : State) : (oeOff s).phyIn = s.phyIn := rfl
@[simp] theorem oeOff_draws (s : State) : (oeOff s).draws = s.draws := rfl
@[simp] theorem oeOff_envIn (s : State) : (oeOff s).envIn = s.envIn := rfl

@[simp] theorem isrStep_kind (n : Nat) (s : State) : (isrStep n s).kind = s.kind := rfl
@[simp] theorem isrStep_h1 (n : Nat) (s : State) : (isrStep n s).h1 = s.h1 := rfl
@[simp] theorem isrStep_h2 (n : Nat) (s : State) : (isrStep n s).h2 = s.h2 := rfl
@[simp] theorem isrStep_wd (n : Nat) (s : State) : (isrStep n s).wd = s.wd := rfl
@[simp] theorem isrStep_rxh (n : Nat) (s : State) : (isrStep n s).rxh = s.rxh := rfl
@[simp] theorem isrStep_rxl (n : Nat) (s : State) : (isrStep n s).rxl = s.rxl := rfl
@[simp] theorem isrStep_rdata (n : Nat) (s : State) : (isrStep n s).rdata = s.rdata := rfl
@[simp] theorem isrStep_seq (n : Nat) (s : State) : (isrStep n s).seq = s.seq := rfl
@[simp] theorem isrStep_oe (n : Nat) (s : State) : (isrStep n s).oe = s.oe := rfl
@[simp] theorem isrStep_ie (n : Nat) (s : State) : (isrStep n s).ie = s.ie := rfl
@[simp] theorem isrStep_sr (n : Nat) (s : State) : (isrStep n s).sr = s.sr := rfl
@[simp] theorem isrStep_sdone (n : Nat) (s : State) : (isrStep n s).sdone = s.sdone := rfl
@[simp] theorem isrStep_sse (n : Nat) (s : State) : (isrStep n s).sse = s.sse := rfl
@[simp] theorem isrStep_irqPending (n : Nat) (s : State) : (isrStep n s).irqPending = n := rfl
@[simp] theorem isrStep_trace (n : Nat) (s : State) : (isrStep n s).trace = s.trace ++ [⟨.isr, s.oe, s.ie⟩] := rfl
@[simp] theorem isrStep_hostIn (n : Nat) (s : State) : (isrStep n s).hostIn = s.hostIn := rfl
@[simp] theorem isrStep_hostGot (n : Nat) (s : State) : (isrStep n s).hostGot = s.hostGot := rfl
@[simp] theorem isrStep_phyIn (n : Nat) (s : State) : (isrStep n s).phyIn = s.phyIn := rfl
@[simp] theorem isrStep_draws (n : Nat) (s : State) : (isrStep n s).draws = s.draws := rfl
@[simp] theorem isrStep_envIn (n : Nat) (s : State) : (isrStep n s).envIn = s.envIn := rfl

@[simp] theorem deliver_kind (s : State) : (deliver s).kind = s.kind := rfl
@[simp] theorem deliver_h1 (s : State) : (deliver s).h1 = s.h1 := rfl
@[simp] theorem deliver_h2 (s : State) : (deliver s).h2 = s.h2 := rfl
@[simp] theorem deliver_wd (s : State) : (deliver s).wd = s.wd := rfl
@[simp] theorem deliver_rxh (s : State) : (deliver s).rxh = s.rxh := rfl
@[simp] theorem deliver_rxl (s : State) : (deliver s).rxl = s.rxl := rfl
@[simp] theorem deliver_rdata (s : State) : (deliver s).rdata = composeResult s.rxh s.rxl := rfl
@[simp] theorem deliver_seq (s : State) : (deliver s).seq = s.seq := rfl
@[simp] theorem deliver_oe (s : State) : (deliver s).oe = s.oe := rfl
@[simp] theorem deliver_ie (s : State) : (deliver s).ie = s.ie := rfl
@[simp] theorem deliver_sr (s : State) : (deliver s).sr = s.sr := rfl
@[simp] theorem deliver_sdone (s : State) : (deliver s).sdone = s.sdone := rfl
@[simp] theorem deliver_sse (s : State) : (deliver s).sse = s.sse := rfl
@[simp] theorem deliver_irqPending (s : State) : (deliver s).irqPending = s.irqPending := rfl
@[simp] theorem deliver_trace (s : State) : (deliver s).trace = s.trace ++ [⟨.deliver (composeResult s.rxh s.rxl), s.oe, s.ie⟩] := rfl
@[simp] theorem deliver_hostIn (s : State) : (deliver s).hostIn = s.hostIn := rfl
@[simp] theorem deliver_hostGot (s : State) : (deliver s).hostGot = s.hostGot := rfl
@[simp] theorem deliver_phyIn (s : State) : (deliver s).phyIn = s.phyIn := rfl
@[simp] theorem deliver_draws (s : State) : (deliver s).draws = s.draws := rfl
@[simp] theorem deliver_envIn (s : State) : (deliver s).envIn = s.envIn := rfl

@[simp] theorem sseInit_kind (s : State) : (sseInit s).kind = s.kind := rfl
@[simp] theorem sseInit_h1 (s : State) : (sseInit s).h1 = s.h1 := rfl
@[simp] theorem sseInit_h2 (s : State) : (sseInit s).h2 = s.h2 := rfl
@[simp] theorem sseInit_wd (s : State) : (sseInit s).wd = s.wd := rfl
@[simp] theorem sseInit_rxh (s : State) : (sseInit s).rxh = s.rxh := rfl
@[simp] theorem sseInit_rxl (s : State) : (sseInit s).rxl = s.rxl := rfl
@[simp] theorem sseInit_rdata (s : State) : (sseInit s).rdata = s.rdata := rfl
@[simp] theorem sseInit_seq (s : State) : (sseInit s).seq = s.seq := rfl
@[simp] theorem sseInit_oe (s : State) : (sseInit s).oe = false := rfl
@[simp] theorem sseInit_ie (s : State) : (sseInit s).ie = s.ie := rfl
@[simp] theorem sseInit_sr (s : State) : (sseInit s).sr = s.sr := rfl
@[simp] theorem sseInit_sdone (s : State) : (sseInit s).sdone = s.sdone := rfl
@[simp] theorem sseInit_sse (s : State) : (sseInit s).sse = sseAfterInit := rfl
@[simp] theorem sseInit_irqPending (s : State) : (sseInit s).irqPending = s.irqPending := rfl
@[simp] theorem sseInit_trace (s : State) : (sseInit s).trace = [] := rfl
@[simp] theorem sseInit_hostIn (s : State) : (sseInit s).hostIn = s.hostIn := rfl
@[simp] theorem sseInit_hostGot (s : State) : (sseInit s).hostGot = s.hostGot := rfl
@[simp] theorem sseInit_phyIn (s : State) : (sseInit s).phyIn = s.phyIn := rfl
@[simp] theorem sseInit_draws (s : State) : (sseInit s).draws = s.draws := rfl
@[simp] theorem sseInit_envIn (s : State) : (sseInit s).envIn = s.envIn := rfl

end Sys2Proof.Machine
end

