-- ==== Sys2Proof/Laws/Ops.lean ====
section
/-! SUPPORT. What each shared operation can do, said once: TRANSCEIVE, the environment's moves, a framer step, a called
command, a step of the system. -/

namespace Sys2Proof.Machine

open Sys2Proof

/-! ### The Serial Shift Engine -/

/-- One bit-cell: bit 0 is the sampled bit, every other bit is the one below it. -/
theorem shiftCell_bit (sr : Byte) (b : Bool) (k : Nat) (hk : k < 8) :
    (shiftCell sr b).2.getLsbD k = if k = 0 then b else sr.getLsbD (k - 1) := by
  have h8 : k < 8 := hk
  by_cases h : k = 0
  · subst h
    cases b <;> simp [shiftCell]
  · have hb : (BitVec.ofBool b).getLsbD k = false := BitVec.getLsbD_of_ge _ _ (by omega)
    have h1 : ¬ k < 1 := by omega
    simp only [shiftCell, BitVec.getLsbD_or, BitVec.getLsbD_shiftLeft, BitVec.getLsbD_setWidth, h8, h, hb, h1]
    simp

/-- Eight bit-cells send a byte most significant bit first and leave the sampled byte in the shift register. -/
theorem shiftCells_lineBits (rx tx : Byte) : shiftCells (lineBits rx) tx = (lineBits tx, rx) := by
  have hout : (shiftCells (lineBits rx) tx).1 = lineBits tx := by
    simp only [shiftCells, lineBits, show ∀ sr b, (shiftCell sr b).1 = sr.getLsbD 7 from fun _ _ => rfl]
    simp (disch := decide) only [shiftCell_bit, Nat.reduceEqDiff, if_false, Nat.reduceSub]
  have hin : (shiftCells (lineBits rx) tx).2 = rx := by
    apply BitVec.eq_of_getLsbD_eq
    intro k hk
    simp only [shiftCells, lineBits]
    interval_cases k <;>
      simp (disch := decide) only [shiftCell_bit, OfNat.ofNat_ne_zero, one_ne_zero, if_true, if_false, Nat.reduceSub]
  exact Prod.ext hout hin

/-- Using up an answer takes it from the script, or counts a free draw. -/
theorem dropRx_eq (s : State) :
    dropRx s = { s with phyIn := s.phyIn.tail, draws := if s.phyIn = [] then s.draws + 1 else s.draws } := by
  rcases s with ⟨⟩
  simp only [dropRx]
  split <;> simp_all

/-- TRANSCEIVE returns the PHY's answer in `sr`, raises the completion flag, records one `Xfer`, and touches nothing
else (R70, R74). -/
theorem transceive_eq (tx : Byte) (s : State) :
    transceive tx s =
      { s with
        sr := nextRx s
        sdone := true
        phyIn := s.phyIn.tail
        draws := if s.phyIn = [] then s.draws + 1 else s.draws
        trace := s.trace ++ [⟨.xfer tx (nextRx s), s.oe, s.ie⟩] } := by
  simp [transceive, emit, sseShift, sseLoad, dropRx_eq, shiftCells_lineBits]

@[simp] theorem transceive_kind (tx : Byte) (s : State) : (transceive tx s).kind = s.kind := by rw [transceive_eq]
@[simp] theorem transceive_h1 (tx : Byte) (s : State) : (transceive tx s).h1 = s.h1 := by rw [transceive_eq]
@[simp] theorem transceive_h2 (tx : Byte) (s : State) : (transceive tx s).h2 = s.h2 := by rw [transceive_eq]
@[simp] theorem transceive_wd (tx : Byte) (s : State) : (transceive tx s).wd = s.wd := by rw [transceive_eq]
@[simp] theorem transceive_rxh (tx : Byte) (s : State) : (transceive tx s).rxh = s.rxh := by rw [transceive_eq]
@[simp] theorem transceive_rxl (tx : Byte) (s : State) : (transceive tx s).rxl = s.rxl := by rw [transceive_eq]
@[simp] theorem transceive_rdata (tx : Byte) (s : State) : (transceive tx s).rdata = s.rdata := by rw [transceive_eq]
@[simp] theorem transceive_seq (tx : Byte) (s : State) : (transceive tx s).seq = s.seq := by rw [transceive_eq]
@[simp] theorem transceive_oe (tx : Byte) (s : State) : (transceive tx s).oe = s.oe := by rw [transceive_eq]
@[simp] theorem transceive_ie (tx : Byte) (s : State) : (transceive tx s).ie = s.ie := by rw [transceive_eq]
@[simp] theorem transceive_sr (tx : Byte) (s : State) : (transceive tx s).sr = nextRx s := by rw [transceive_eq]
@[simp] theorem transceive_sdone (tx : Byte) (s : State) : (transceive tx s).sdone = true := by rw [transceive_eq]
@[simp] theorem transceive_sse (tx : Byte) (s : State) : (transceive tx s).sse = s.sse := by rw [transceive_eq]
@[simp] theorem transceive_irqPending (tx : Byte) (s : State) : (transceive tx s).irqPending = s.irqPending := by rw [transceive_eq]
@[simp] theorem transceive_trace (tx : Byte) (s : State) : (transceive tx s).trace = s.trace ++ [⟨.xfer tx (nextRx s), s.oe, s.ie⟩] := by rw [transceive_eq]
@[simp] theorem transceive_hostIn (tx : Byte) (s : State) : (transceive tx s).hostIn = s.hostIn := by rw [transceive_eq]
@[simp] theorem transceive_hostGot (tx : Byte) (s : State) : (transceive tx s).hostGot = s.hostGot := by rw [transceive_eq]
@[simp] theorem transceive_phyIn (tx : Byte) (s : State) : (transceive tx s).phyIn = s.phyIn.tail := by rw [transceive_eq]
@[simp] theorem transceive_draws (tx : Byte) (s : State) : (transceive tx s).draws = if s.phyIn = [] then s.draws + 1 else s.draws := by rw [transceive_eq]
@[simp] theorem transceive_envIn (tx : Byte) (s : State) : (transceive tx s).envIn = s.envIn := by rw [transceive_eq]
/-- The answer to the present `Xfer` is the first of the stream. -/
theorem nextRx_eq_rxAt (s : State) : nextRx s = rxAt s 0 := by
  rcases h : s.phyIn with _ | ⟨b, bs⟩ <;> simp [nextRx, rxAt, h]

/-- After a `TRANSCEIVE` the stream of answers goes on one further (R72). -/
theorem rxAt_transceive (tx : Byte) (s : State) (k : Nat) : rxAt (transceive tx s) k = rxAt s (k + 1) := by
  rcases h : s.phyIn with _ | ⟨b, bs⟩
  · simp [rxAt, h, Nat.add_assoc, Nat.add_comm 1 k]
  · simp [rxAt, h]

/-- The stream of answers depends on the script and the counter alone. -/
theorem rxAt_congr {s t : State} (hp : t.phyIn = s.phyIn) (hd : t.draws = s.draws) (k : Nat) : rxAt t k = rxAt s k := by
  simp [rxAt, hp, hd]

/-! ### Accept -/

/-- What `Accept` leaves alone (R101): the flags, the received bytes, the result, the engine and all inputs. -/
theorem accept_frame (i : Instr) (s : State) :
    (accept i s).oe = s.oe ∧ (accept i s).ie = s.ie ∧ (accept i s).rxh = s.rxh ∧ (accept i s).rxl = s.rxl ∧
      (accept i s).rdata = s.rdata ∧ (accept i s).sr = s.sr ∧ (accept i s).sdone = s.sdone ∧
      (accept i s).sse = s.sse ∧ (accept i s).irqPending = s.irqPending ∧ (accept i s).hostIn = s.hostIn ∧
      (accept i s).hostGot = s.hostGot ∧ (accept i s).phyIn = s.phyIn ∧ (accept i s).draws = s.draws ∧
      (accept i s).envIn = s.envIn := by
  cases i <;> exact ⟨rfl, rfl, rfl, rfl, rfl, rfl, rfl, rfl, rfl, rfl, rfl, rfl, rfl, rfl⟩

/-! ### The environment -/

/-- A script's enabled moves run handlers, each recorded with the flags as they stand, change `irq_pending`, and touch
nothing else; with `ie = 0` no handler runs (R107, R124). -/
theorem envDrainList_spec (ms : List EnvMove) (s : State) :
    ∃ rest p n, envDrainList ms s =
        { s with envIn := rest, irqPending := p, trace := s.trace ++ isrRuns n s.oe s.ie } ∧
      (s.ie = false → n = 0) := by
  induction ms generalizing s with
  | nil => exact ⟨[], s.irqPending, 0, by simp [envDrainList, isrRuns], fun _ => rfl⟩
  | cons m ms ih =>
    cases m with
    | isr k =>
      by_cases hi : s.ie = true
      · obtain ⟨rest, p, n, he, -⟩ := ih (isrStep k s)
        refine ⟨rest, p, n + 1, ?_, by simp [hi]⟩
        rw [envDrainList, if_pos hi, he]
        simp [isrRuns, List.replicate_succ]
      · exact ⟨.isr k :: ms, s.irqPending, 0, by simp [envDrainList, hi, isrRuns], fun _ => rfl⟩
    | pending k =>
      obtain ⟨rest, p, n, he, hn⟩ := ih { s with irqPending := k }
      exact ⟨rest, p, n, by simp [envDrainList, he], hn⟩
    | pass => exact ⟨ms, s.irqPending, 0, by simp [envDrainList, isrRuns], fun _ => rfl⟩

/-- What the environment can do before an event of a command. -/
theorem envDrain_spec (s : State) :
    ∃ rest p n, envDrain s =
        { s with envIn := rest, irqPending := p, trace := s.trace ++ isrRuns n s.oe s.ie } ∧
      (s.ie = false → n = 0) :=
  envDrainList_spec s.envIn s

/-- Letting the others move changes nothing but the environment's script. -/
theorem envPass_spec (s : State) : ∃ rest, envPass s = { s with envIn := rest } := by
  rcases s with ⟨⟩
  simp only [envPass]
  split
  · exact ⟨_, rfl⟩
  · exact ⟨_, rfl⟩

/-- An enabled move of the environment is a handler run with `ie = 1`, or a change of `irq_pending` alone. -/
theorem envMove_cases {s t : State} (h : envMove s = some t) :
    (∃ n ms, s.envIn = .isr n :: ms ∧ s.ie = true ∧ t = isrStep n { s with envIn := ms }) ∨
      (∃ n ms, s.envIn = .pending n :: ms ∧ t = { s with envIn := ms, irqPending := n }) := by
  unfold envMove at h
  split at h
  · next n ms he =>
    split at h
    · next hi => exact .inl ⟨n, ms, he, hi, by simpa using h.symm⟩
    · cases h
  · next n ms he => exact .inr ⟨n, ms, he, by simpa using h.symm⟩
  · cases h
  · cases h

/-! ### Framer steps and calls -/

/-- The framer steps to a next state, or is not configured and would shift (R114, R144). -/
theorem framerStep_next {s t : State} (h : framerStep s = .next t) :
    t = framerAct s ∧ (shifts s.seq = true → sseReady s.sse = true) := by
  unfold framerStep at h
  split at h
  · cases h
  · next hc =>
    refine ⟨by simpa using h.symm, fun hs => ?_⟩
    simpa [hs] using hc

/-- With a configured engine the framer's step is its transition (R71). -/
theorem framerStep_ready {s : State} (h : sseReady s.sse = true) : framerStep s = .next (framerAct s) := by
  simp [framerStep, h]

/-- A called command that answers a next state was callable, and that state is the end of its path. -/
theorem runCommand_next {i : Instr} {k : Nat} {s t : State} (h : runCommand i k s = .next t) :
    CanCall s ∧ t = framerRun k (accept i s) := by
  unfold runCommand at h
  split at h
  · cases h
  · next hr =>
    split at h
    · cases h
    · next hb =>
      refine ⟨⟨by simpa using hr, by simpa [busy] using hb⟩, by simpa using h.symm⟩

/-- A callable command runs (R80, R120). -/
theorem runCommand_ready {i : Instr} {k : Nat} {s : State} (h : CanCall s) :
    runCommand i k s = .next (framerRun k (accept i s)) := by
  simp [runCommand, h.1, busy, h.2]

/-! ### A step of the system -/

/-- A command the host calls is a command its next step accepts. -/
theorem nextCommand_of_called {s : State} {i : Instr} (h : calledCommand s = some i) : nextCommand s = some i := by
  unfold nextCommand
  split
  · next e => simp [calledCommand, e] at h
  · exact h

/-- Everything a host step that goes on can be: waiting, a called command, an offered one's `Accept`, `INIT`, a read of
`rdata`, a write of `ie`, or another step (R108). -/
theorem hostStep_next {s t : State} (h : hostStep s = .next t) :
    (s.hostIn = [] ∧ t = s) ∨
      (∃ i e rest, s.hostIn = e :: rest ∧ calledCommand s = some i ∧ exec i { s with hostIn := rest } = .next t) ∨
      (∃ i rest, s.hostIn = .offer i :: rest ∧ sseReady s.sse = true ∧ t = accept i { s with hostIn := rest }) ∨
      (∃ rest, s.hostIn = .init :: rest ∧ t = sseInit { s with hostIn := rest }) ∨
      (∃ rest, s.hostIn = .readResult :: rest ∧ t = { s with hostIn := rest, hostGot := s.hostGot ++ [s.rdata] }) ∨
      (∃ b rest, s.hostIn = .setIe b :: rest ∧ t = { s with hostIn := rest, ie := b }) ∨
      (∃ rest, s.hostIn = .other :: rest ∧ t = { s with hostIn := rest }) := by
  unfold hostStep at h
  split at h
  · next e => cases h; exact .inl ⟨e, rfl⟩
  · next rest e => cases h; exact .inr (.inr (.inr (.inl ⟨rest, e, rfl⟩)))
  · next i rest e => exact .inr (.inl ⟨i, _, rest, e, by simp [calledCommand, e], h⟩)
  · next i rest e =>
    unfold offerCommand at h
    split at h
    · next hr => cases h; exact .inr (.inr (.inl ⟨i, rest, e, hr, rfl⟩))
    · cases h
  · next key rest e => exact .inr (.inl ⟨_, _, rest, e, by simp [calledCommand, e], h⟩)
  · next bytes rest e =>
    unfold callFrame at h
    split at h
    · next i hd => exact .inr (.inl ⟨i, _, rest, e, by simp [calledCommand, e, hd, Except.toOption], h⟩)
    · cases h
  · next rest e => cases h; exact .inr (.inr (.inr (.inr (.inl ⟨rest, e, rfl⟩))))
  · next b rest e => cases h; exact .inr (.inr (.inr (.inr (.inr (.inl ⟨b, rest, e, rfl⟩)))))
  · next rest e => cases h; exact .inr (.inr (.inr (.inr (.inr (.inr ⟨rest, e, rfl⟩)))))

/-- Everything a step of the system can be: the environment's move, the framer's step, or the host's. -/
theorem step_cases (s : State) :
    (∃ t, envMove s = some t ∧ step s = .next t) ∨
      (envMove s = none ∧ busy s = true ∧ step s = framerStep (envPass s)) ∨
      (envMove s = none ∧ busy s = false ∧ step s = hostStep (envPass s)) := by
  unfold step systemStep
  rcases h : envMove s with _ | t
  · rcases hb : busy s
    · exact .inr (.inr ⟨rfl, rfl, by simp⟩)
    · exact .inr (.inl ⟨rfl, rfl, by simp⟩)
  · exact .inl ⟨t, rfl, rfl⟩

end Sys2Proof.Machine
end

