-- ==== Sys2Proof/Laws/Encoding.lean ====
section
/-! SUPPORT. The bits of the two-byte header word and of its field layout, one lemma each, so that an encoding claim is a
comparison of bits. -/

namespace Sys2Proof.Machine

open Sys2Proof

/-- Bit `n` of two bytes read as a word, the first the high one. -/
theorem word_bit (a b : BitVec 8) (n : Nat) :
    (a ++ b : BitVec 16).getLsbD n = if n < 8 then b.getLsbD n else a.getLsbD (n - 8) := by
  have h : (a ++ b).getLsbD n = _ := BitVec.getLsbD_append
  rw [h]

/-- A word is its high byte and its low byte. -/
theorem word_halves (h : BitVec 16) : (h.extractLsb' 8 8 ++ h.extractLsb' 0 8 : BitVec 16) = h := by
  apply BitVec.eq_of_getLsbD_eq
  intro n hn
  rw [word_bit]
  interval_cases n <;> simp

/-- Bit `n` of the header word by its field: `TA`, `REGAD`, `PHYAD`, `OP`, `ST` from the low end (R52). -/
theorem headerWord_bit (k : Kind) (p r : BitVec 8) (n : Nat) :
    (headerWord k p r).getLsbD n =
      if n < 2 then (0b10#2).getLsbD n
      else if n < 7 then r.getLsbD (n - 2)
      else if n < 12 then p.getLsbD (n - 7)
      else if n < 14 then (opField k).getLsbD (n - 12)
      else (0b01#2).getLsbD (n - 14) := by
  have h : (headerWord k p r).getLsbD n =
      (0b01#2 ++ opField k ++ p.extractLsb' 0 5 ++ r.extractLsb' 0 5 ++ 0b10#2).getLsbD n := rfl
  rw [h]
  simp only [BitVec.getLsbD_append, BitVec.getLsbD_extractLsb']
  rcases Nat.lt_or_ge n 2 with h2 | h2
  · simp [h2]
  rcases Nat.lt_or_ge n 7 with h7 | h7
  · have : n - 2 < 5 := by omega
    simp [h7, this, Nat.not_lt.mpr h2]
  have a : ¬ n - 2 < 5 := by omega
  have c : n - 2 - 5 = n - 7 := by omega
  have c' : n - 7 - 5 = n - 12 := by omega
  rcases Nat.lt_or_ge n 12 with h12 | h12
  · have d : n - 7 < 5 := by omega
    simp [h12, a, c, d, Nat.not_lt.mpr h2, Nat.not_lt.mpr h7]
  have b : ¬ n - 7 < 5 := by omega
  rcases Nat.lt_or_ge n 14 with h14 | h14
  · have d : n - 12 < 2 := by omega
    simp only [a, b, c, c', d, h14, Nat.not_lt.mpr h2, Nat.not_lt.mpr h7, Nat.not_lt.mpr h12, if_true, if_false]
  · have d : ¬ n - 12 < 2 := by omega
    have e : n - 12 - 2 = n - 14 := by omega
    simp only [a, b, c, c', d, e, Nat.not_lt.mpr h2, Nat.not_lt.mpr h7, Nat.not_lt.mpr h12, Nat.not_lt.mpr h14, if_false]

/-- Every header word matches its row of the opcode map (R60). -/
theorem headerWord_match (k : Kind) (p r : BitVec 8) : headerWord k p r &&& headerMask = headerMatch k := by
  apply BitVec.eq_of_getLsbD_eq
  intro n hn
  rw [BitVec.getLsbD_and, headerWord_bit]
  cases k <;> interval_cases n <;> simp [headerMask, headerMatch, opField]

/-- The two rows of the opcode map do not overlap. -/
theorem headerMatch_distinct (k k' : Kind) (h : headerMatch k = headerMatch k') : k = k' := by
  cases k <;> cases k' <;> simp_all [headerMatch]

end Sys2Proof.Machine
end

