-- ==== Sys2Proof/Laws/PerInstr.lean ====
section
/-! SUPPORT. Statements made for every command, one lemma per constructor. -/

/-- The frame of a command is eight bytes: four preamble bytes, then a header word that matches the command's own row of
the opcode map and no other (R50, R60, R61). -/
def Sys2Proof.Laws.EncodesItsRow.Statement (i : Sys2Proof.Instr) : Prop :=
  (Sys2Proof.encode i).length = 8 ∧
  (Sys2Proof.encode i).take 4 = List.replicate 4 Sys2Proof.preambleByte ∧
  ∀ k : Sys2Proof.Kind,
    (Sys2Proof.headerWord i.kind i.phyAddr i.regAddr &&& Sys2Proof.headerMask = Sys2Proof.headerMatch k ↔ k = i.kind)

theorem Sys2Proof.Laws.EncodesItsRow.write (phyAddr regAddr : Sys2Proof.AddrOperand) (data : Sys2Proof.Word16) :
    Sys2Proof.Laws.EncodesItsRow.Statement (.write phyAddr regAddr data) := by
  refine ⟨rfl, rfl, fun k => ?_⟩
  rw [Sys2Proof.Machine.headerWord_match]
  exact ⟨fun h => (Sys2Proof.Machine.headerMatch_distinct _ _ h).symm, fun h => h ▸ rfl⟩

theorem Sys2Proof.Laws.EncodesItsRow.read (phyAddr regAddr : Sys2Proof.AddrOperand) :
    Sys2Proof.Laws.EncodesItsRow.Statement (.read phyAddr regAddr) := by
  refine ⟨rfl, rfl, fun k => ?_⟩
  rw [Sys2Proof.Machine.headerWord_match]
  exact ⟨fun h => (Sys2Proof.Machine.headerMatch_distinct _ _ h).symm, fun h => h ▸ rfl⟩
end

