-- ==== Sys2Proof/Tests/Slice0.lean ====
section
/-! SUPPORT. Small tests. Expected values come from 95_test_vectors.md (V7 to V20, P1, P5) and from the encodings of
30_encoding.md; the second half shows for every statement with hypotheses states and operands that meet them. -/

namespace Sys2Proof.Tests

open Sys2Proof Sys2Proof.Machine

/-- Hardware reset, then `INIT` (95_test_vectors.md section 3). -/
def booted : State := sseInit State.reset

/-- `booted` with the host's steps, the PHY's answers, `ie` and the environment's moves as given. -/
def start (host : List HostStep) (phy : List Byte) (ie : Bool) (env : List EnvMove) : State :=
  { booted with hostIn := host, phyIn := phy, ie := ie, envIn := env }

/-- A property of the next state; false of a stop. -/
def nextHas (o : Host.Outcome State Fault Refusal) (p : State → Bool) : Bool :=
  match o with
  | .next t => p t
  | .fault _ => false
  | .refused _ => false

/-- The fault of an outcome. -/
def faultOf (o : Host.Outcome State Fault Refusal) : Option Fault :=
  match o with
  | .fault f => some f
  | .next _ => none
  | .refused _ => none

/-- The refusal of an outcome. -/
def refusalOf (o : Host.Outcome State Fault Refusal) : Option Refusal :=
  match o with
  | .refused r => some r
  | .next _ => none
  | .fault _ => none

/-- Eight answers of the PHY. -/
def answers : List Byte := [0xA0#8, 0xA1#8, 0xA2#8, 0xA3#8, 0xA4#8, 0xA5#8, 0x12#8, 0x34#8]

/-! ### WellFormed -/

theorem test_wf_limits : Instr.wf (.write 0x1F#8 0x1F#8 0xFFFF#16) = true ∧ Instr.wf (.read 0x00#8 0x1F#8) = true := by decide
theorem test_wf_refuses_phy : Instr.wf (.write 0x20#8 0x00#8 0x0000#16) = false ∧ Instr.wf (.read 0xE1#8 0x00#8) = false := by decide
theorem test_wf_refuses_reg : Instr.wf (.write 0x00#8 0x20#8 0x0000#16) = false ∧ Instr.wf (.read 0x00#8 0xFF#8) = false := by decide

/-! ### Decode and encode (R52, R60, V7, V8, V19) -/

/-- V7 and V19: `01 01 10000 11111 10`, data 0x55AA. -/
theorem test_decode_write_bits :
    decodeFrame [0b11111111#8, 0b11111111#8, 0b11111111#8, 0b11111111#8, 0b01011000#8, 0b01111110#8, 0b01010101#8, 0b10101010#8]
      = .ok (.write 0x10#8 0x1F#8 0x55AA#16) := by decide

/-- V8: `01 10 00001 00010 10`; the last two slots are the PHY's. -/
theorem test_decode_read_bits :
    decodeFrame [0b11111111#8, 0b11111111#8, 0b11111111#8, 0b11111111#8, 0b01100000#8, 0b10001010#8, 0b00010010#8, 0b00110100#8]
      = .ok (.read 0x01#8 0x02#8) := by decide

/-- V8: rows with one address bit, both kinds. -/
theorem test_decode_rows :
    decodeTableWord 16 0x5182 = some (.write 0x03#8 0x00#8 0x0000#16) ∧
    decodeTableWord 16 0x5042 = some (.write 0x00#8 0x10#8 0x0000#16) ∧
    decodeTableWord 16 0x68C6 = some (.read 0x11#8 0x11#8) := by decide

/-- R61, U18: reserved headers and bad frames are refused by name. -/
theorem test_decode_refuses :
    decodeFrame [0xFF#8, 0xFF#8, 0xFF#8, 0xFF#8, 0x48#8, 0xFE#8, 0x55#8, 0xAA#8] = .error .reservedOpcode ∧
    decodeFrame [0xFF#8, 0xFF#8, 0xFF#8, 0xFF#8, 0x70#8, 0x02#8, 0x00#8, 0x00#8] = .error .reservedOpcode ∧
    decodeFrame [0xFF#8, 0xFF#8, 0xFF#8, 0xFF#8, 0x10#8, 0x02#8, 0x00#8, 0x00#8] = .error .badStart ∧
    decodeFrame [0xFF#8, 0xFF#8, 0xFF#8, 0xFF#8, 0x50#8, 0x00#8, 0x00#8, 0x00#8] = .error .badTurnaround ∧
    decodeFrame [0xFF#8, 0xFF#8, 0xFE#8, 0xFF#8, 0x50#8, 0x02#8, 0x00#8, 0x00#8] = .error .badPreamble ∧
    decodeFrame [0xFF#8, 0xFF#8, 0xFF#8, 0x50#8, 0x02#8, 0x00#8, 0x00#8] = .error .badLength := by decide

/-- V3 and V8: the encoder's frames. -/
theorem test_encode_frames :
    encode (.write 0xFF#8 0xFF#8 0xABCD#16) = [0xFF#8, 0xFF#8, 0xFF#8, 0xFF#8, 0x5F#8, 0xFE#8, 0xAB#8, 0xCD#8] ∧
    encode (.read 0x3F#8 0x21#8) = [0xFF#8, 0xFF#8, 0xFF#8, 0xFF#8, 0x6F#8, 0x86#8, 0x00#8, 0x00#8] := by decide

/-- V8: the byte formulas. -/
theorem test_header_bytes :
    headerByte1 .write 0x10#8 = 0x58#8 ∧ headerByte2 0x10#8 0xFF#8 = 0x7E#8 ∧
    headerByte1 .read 0x0A#8 = 0x65#8 ∧ headerByte2 0x0A#8 0x15#8 = 0x56#8 ∧
    headerByte1 .read 0x01#8 = 0x60#8 ∧ headerByte2 0x01#8 0x1E#8 = 0xFA#8 := by decide

/-! ### WRITE -/

/-- V9: the whole trace of `WRITE(0x10, 0xFF, 0x55AA)` with `ie = 1` at entry. -/
theorem test_write_trace :
    nextHas (step (start [.call (.write 0x10#8 0xFF#8 0x55AA#16)] answers true [])) (fun t =>
      t.trace == [⟨.accept (.write 0x10#8 0xFF#8 0x55AA#16), false, true⟩,
        ⟨.irqOff, false, false⟩, ⟨.oeOn, true, false⟩,
        ⟨.xfer 0xFF#8 0xA0#8, true, false⟩, ⟨.xfer 0xFF#8 0xA1#8, true, false⟩, ⟨.xfer 0xFF#8 0xA2#8, true, false⟩,
        ⟨.xfer 0xFF#8 0xA3#8, true, false⟩, ⟨.xfer 0x58#8 0xA4#8, true, false⟩, ⟨.xfer 0x7E#8 0xA5#8, true, false⟩,
        ⟨.xfer 0x55#8 0x12#8, true, false⟩, ⟨.xfer 0xAA#8 0x34#8, true, false⟩,
        ⟨.oeOff, false, false⟩, ⟨.irqOn, false, true⟩]) = true := by decide

/-- V9, V20: the end state, entered with `ie = 0`; `ie = 1` after it, nothing received is kept. -/
theorem test_write_end_state :
    nextHas (step (start [.call (.write 0x00#8 0x00#8 0x1234#16)] answers false [])) (fun t =>
      t.seq == .idle && !t.oe && t.ie && t.kind == .write && t.h1 == 0x50#8 && t.h2 == 0x02#8 && t.wd == 0x1234#16
        && t.rxh == 0x00#8 && t.rxl == 0x00#8 && t.rdata == 0x0000#16) = true := by decide

/-! ### READ -/

/-- V12: `READ(0x01, 0x02)` with the answers 0x12, 0x34. -/
theorem test_read_result :
    nextHas (step (start [.call (.read 0x01#8 0x02#8)] answers true [])) (fun t =>
      t.rdata == 0x1234#16 && t.rxh == 0x12#8 && t.rxl == 0x34#8 && t.kind == .read && t.h1 == 0x60#8 && t.h2 == 0x8A#8
        && !t.oe && t.ie && t.seq == .idle
        && sentBytes t.trace == [0xFF#8, 0xFF#8, 0xFF#8, 0xFF#8, 0x60#8, 0x8A#8, 0x00#8, 0x00#8]) = true := by decide

/-- V15 first trace, V11: handlers in the window with `oe = 1`, and between `IrqOn` and `Deliver`. -/
theorem test_read_interleaving :
    nextHas (step (start [.call (.read 0x1F#8 0x1F#8)] answers true
        ([.pass, .pass, .isr 1, .isr 0] ++ List.replicate 11 .pass ++ [.isr 0]))) (fun t =>
      t.trace == [⟨.accept (.read 0x1F#8 0x1F#8), false, true⟩, ⟨.oeOn, true, true⟩, ⟨.isr, true, true⟩, ⟨.isr, true, true⟩,
        ⟨.irqOff, true, false⟩,
        ⟨.xfer 0xFF#8 0xA0#8, true, false⟩, ⟨.xfer 0xFF#8 0xA1#8, true, false⟩, ⟨.xfer 0xFF#8 0xA2#8, true, false⟩,
        ⟨.xfer 0xFF#8 0xA3#8, true, false⟩, ⟨.xfer 0x6F#8 0xA4#8, true, false⟩, ⟨.xfer 0xFE#8 0xA5#8, true, false⟩,
        ⟨.oeOff, false, false⟩, ⟨.xfer 0x00#8 0x12#8, false, false⟩, ⟨.xfer 0x00#8 0x34#8, false, false⟩,
        ⟨.irqOn, false, true⟩, ⟨.isr, false, true⟩, ⟨.deliver 0x1234#16, false, true⟩]) = true := by decide

/-! ### The other agents -/

/-- V18: `INIT` after reset; `ie` unchanged. -/
theorem test_init :
    nextHas (step { State.reset with hostIn := [.init], oe := true, ie := true }) (fun t =>
      !t.oe && t.ie && t.sse.cpol && t.sse.cpha && t.sse.role == .master && sseReady t.sse && t.seq == .idle) = true := by decide

/-- R27, row `trace`: empty after `INIT`, whatever a handler run before it has left there. -/
theorem test_init_empties_trace :
    nextHas (step { State.reset with hostIn := [.init], trace := [⟨.isr, false, true⟩] }) (fun t => t.trace.isEmpty) = true := by
  decide

/-- V18, R144: a command before `INIT`. -/
theorem test_before_init :
    faultOf (step { State.reset with hostIn := [.call (.read 0x00#8 0x00#8)] }) = some .beforeInit := by decide

/-- V17: `TRANSCEIVE(0xA5)` while the line carries 0 0 0 1 0 0 1 0. -/
theorem test_shift_cells :
    shiftCells [false, false, false, true, false, false, true, false] 0xA5#8
      = ([true, false, true, false, false, true, false, true], 0x12#8) := by decide

/-- V15: with `ie = 0` a waiting handler is held off and the framer moves (state `W_OE`). -/
theorem test_handler_held_off :
    nextHas (step { start [] answers false [.isr 0] with seq := .wOE }) (fun t =>
      t.seq == .wP0 && t.oe && t.trace == [⟨.oeOn, true, false⟩] && t.envIn == [.isr 0]) = true := by decide

/-- P1 and R100: an offered command takes its `Accept` as one step. -/
theorem test_offer_is_accept :
    nextHas (step (start [.offer (.write 0x01#8 0x00#8 0x1200#16)] answers true [])) (fun t =>
      t.seq == .wDI && t.h1 == 0x50#8 && t.h2 == 0x82#8 && t.wd == 0x1200#16 && t.ie && !t.oe) = true := by decide

/-- R130, U10: a command executed over another is refused. -/
theorem test_overlap_refused :
    refusalOf (exec (.read 0x00#8 0x00#8) { booted with seq := .rDI }) = some .overlappingCommand := by decide

/-- V8 and log entry 16: a placed opcode-table word is what the first step after reset runs. -/
theorem test_placed_words_run :
    nextHas (step (State.reset.withFetchWord 16 0x5002)) (fun t => t.kind == .write && t.h1 == 0x50#8 && t.h2 == 0x02#8) = true ∧
    nextHas (step (State.reset.withFetchWord 16 0x6F86)) (fun t => t.kind == .read && t.h1 == 0x6F#8 && t.h2 == 0x86#8) = true ∧
    refusalOf (step (State.reset.withFetchWord 16 0x7002)) = some (.reservedFrame .reservedOpcode) := by decide

/-! ### Witnesses: states and operands that meet the hypotheses of the statements -/

/-- A state at position `q` of a path, engine configured, interrupts enabled. -/
def stateAt (q : Seq) : State := { booted with seq := q, ie := true }

/-- All states of both paths. -/
def pathStates : List Seq :=
  [.wDI, .wOE, .wP0, .wP1, .wP2, .wP3, .wH1, .wH2, .wDH, .wDL, .wOD, .wEI,
   .rOE, .rDI, .rP0, .rP1, .rP2, .rP3, .rH1, .rH2, .rOD, .rRH, .rRL, .rEI, .rRES]

/-- `DecodeOfEncodeIsTheCommand`: operands at the top of their range. -/
theorem witness_DecodeOfEncode : Instr.wf (.write 0x1F#8 0x1F#8 0xFFFF#16) = true ∧ Instr.wf (.read 0x1F#8 0x1F#8) = true := by decide

/-- `DecodedFrameEncodesBack`: a frame of each kind. -/
theorem witness_DecodedFrame :
    decodeFrame [0xFF#8, 0xFF#8, 0xFF#8, 0xFF#8, 0x5F#8, 0xFE#8, 0xFF#8, 0xFF#8] = .ok (.write 0x1F#8 0x1F#8 0xFFFF#16) ∧
    Instr.kind (.write 0x1F#8 0x1F#8 0xFFFF#16) = .write ∧
    decodeFrame [0xFF#8, 0xFF#8, 0xFF#8, 0xFF#8, 0x60#8, 0x02#8, 0xBE#8, 0xEF#8] = .ok (.read 0x00#8 0x00#8) := by decide

/-- `ReservedHeadersAreRefused`: each clause, with every reserved value of its field. -/
theorem witness_ReservedHeaders :
    (0x1002#16).extractLsb' 14 2 ≠ 0b01#2 ∧ (0x9002#16).extractLsb' 14 2 ≠ 0b01#2 ∧ (0xD002#16).extractLsb' 14 2 ≠ 0b01#2 ∧
    ((0x4002#16).extractLsb' 14 2 = 0b01#2 ∧ (0x4002#16).extractLsb' 12 2 = 0b00#2) ∧
    ((0x7002#16).extractLsb' 14 2 = 0b01#2 ∧ (0x7002#16).extractLsb' 12 2 = 0b11#2) ∧
    ((0x5000#16).extractLsb' 14 2 = 0b01#2 ∧ (0x5000#16).extractLsb' 12 2 = 0b01#2 ∧ (0x5000#16).extractLsb' 0 2 ≠ 0b10#2) ∧
    ((0x6003#16).extractLsb' 14 2 = 0b01#2 ∧ (0x6003#16).extractLsb' 12 2 = 0b10#2 ∧ (0x6003#16).extractLsb' 0 2 ≠ 0b10#2) := by
  decide

/-- `CanCall`, the hypothesis of `HeaderBytesFollowTheFormulas`, `WriteEmitsItsTrace`, `WriteDataGoesHighByteFirst`,
`WriteDrivesAllEightBytes`, `ReadEmitsItsTrace`, `ReadResultIsTheTwoAnswers`, `ReadReleasesAfterHeaderByteTwo`,
`SentFrameIsTheEncoding`, `LineCarriesTheFrame`; with either value of `ie` at entry. -/
theorem witness_CanCall : CanCall booted ∧ booted.ie = false ∧ CanCall { booted with ie := true } := by decide

/-- `HighOperandBitsHaveNoEffect`: operands that differ in bits 7 to 5 alone. -/
theorem witness_HighOperandBits :
    CanCall booted ∧ (0xFF#8).extractLsb' 0 5 = (0x1F#8).extractLsb' 0 5 ∧ (0xE0#8).extractLsb' 0 5 = (0x00#8).extractLsb' 0 5 := by
  decide

/-- `WriteLeavesTheRest` and `ReadLeavesTheRest`: both commands answer a next state, the environment quiet. -/
theorem witness_Frames :
    (∃ t, exec (.write 0xFF#8 0x1F#8 0x8001#16) booted = .next t) ∧ (∃ t, exec (.read 0x00#8 0xFF#8) booted = .next t) ∧
    booted.envIn = [] :=
  ⟨⟨_, runCommand_ready (i := .write 0xFF#8 0x1F#8 0x8001#16) (k := 12) (s := booted) (by decide)⟩,
    ⟨_, runCommand_ready (i := .read 0x00#8 0xFF#8) (k := 13) (s := booted) (by decide)⟩, rfl⟩

/-- `AnswersSteerNothing`: two callable states that differ in the PHY's answers. -/
theorem witness_Answers :
    CanCall (start [] answers true []) ∧ CanCall (start [] [] true []) ∧
    blind (start [] answers true []) = blind (start [] [] true []) := ⟨by decide, by decide, rfl⟩

/-- `CommandBeforeInitFaults`: the state after reset, and one that would shift. -/
theorem witness_BeforeInit :
    sseReady State.reset.sse = false ∧ sseReady ({ State.reset with seq := .rRH } : State).sse = false ∧
    shifts ({ State.reset with seq := .rRH } : State).seq = true := by decide

/-- `OverlappingCommandIsRefused`, `BusyStepsAlwaysGoOn`, `WritePathTransitions`, `ReadPathTransitions`: every state of
both paths, engine configured, the environment quiet. -/
theorem witness_Paths :
    ∀ q ∈ pathStates, sseReady (stateAt q).sse = true ∧ (stateAt q).seq = q ∧ (stateAt q).seq ≠ .idle ∧ (envMove (stateAt q)).isNone = true := by
  decide

/-- `AcceptLatchesTheOperands`, `OfferedCommandReturnsOnTime`, `OfferedCommandRefinesTheCall`: a command of each kind
offered, the environment quiet, and with a script that lets the host move first. -/
theorem witness_Offer :
    (∀ i ∈ [Instr.write 0xFF#8 0xFF#8 0xABCD#16, Instr.read 0x3F#8 0x21#8],
      CanCall (start [.offer i] answers true []) ∧ (envMove (start [.offer i] answers true [])).isNone = true ∧
      (start [.offer i] answers true []).hostIn = [.offer i] ∧ (start [.offer i] answers true []).envIn = []) ∧
    (envMove (start [.offer (.read 0x3F#8 0x21#8)] answers true [.pass, .isr 0])).isNone = true := by
  decide

/-- `StepRunsTheDecodedCommand`: a call, and a frame that decodes. -/
theorem witness_StepRuns :
    (start [.call (.read 0x01#8 0x02#8)] [] true []).seq = .idle ∧
    (envMove (start [.call (.read 0x01#8 0x02#8)] [] true [])).isNone = true ∧
    (start [.call (.read 0x01#8 0x02#8)] [] true []).hostIn = [.call (.read 0x01#8 0x02#8)] ∧
    (start [.frame (encode (.read 0x01#8 0x02#8))] [] true []).hostIn = [.frame (encode (.read 0x01#8 0x02#8))] ∧
    decodeFrame (encode (.read 0x01#8 0x02#8)) = .ok (.read 0x01#8 0x02#8) := by decide

/-- `PlacedWordIsRunNext`: a word of each row. -/
theorem witness_PlacedWord :
    decodeTableWord 16 0x5FFE = some (.write 0x1F#8 0x1F#8 0x0000#16) ∧ decodeTableWord 16 0x6002 = some (.read 0x00#8 0x00#8) := by
  decide

/-- `HostWaitsWhileBusy`: a step of the framer and a step of a handler while a command is in progress. -/
theorem witness_HostWaits :
    nextHas (step { (stateAt .rDI) with hostIn := [.readResult] }) (fun t => t.seq == .rP0) = true ∧
    nextHas (step { (stateAt .rDI) with envIn := [.isr 3] }) (fun t => t.seq == .rDI && t.irqPending == 3) = true := by decide

/-- `HandlerRunsOnlyWhileEnabled`: both values of `ie`, framer idle and busy. -/
theorem witness_Handler :
    ({ (stateAt .rDI) with envIn := [.isr 3] } : State).envIn = [.isr 3] ∧ (stateAt .rDI).ie = true ∧
    ({ (stateAt .wP0) with envIn := [.isr 3], ie := false } : State).ie = false ∧ busy (stateAt .wP0) = true ∧
    busy booted = false := by decide

/-- `InitConfiguresTheEngine`, `HostReadsTheResult`: the host's entry at the head, the environment quiet. -/
theorem witness_HostEntries :
    ({ State.reset with hostIn := [.init] } : State).seq = .idle ∧
    (envMove { State.reset with hostIn := [.init] }).isNone = true ∧
    (start [.readResult] [] true []).seq = .idle ∧ (envMove (start [.readResult] [] true [])).isNone = true ∧
    (start [.readResult] [] true []).hostIn = [.readResult] := by decide

/-- `OnlyInitConfigures`: a step that configures and one of a configured engine. -/
theorem witness_OnlyInit :
    nextHas (step { State.reset with hostIn := [.init] }) (fun t => sseReady t.sse) = true ∧
    nextHas (step (stateAt .wP0)) (fun t => sseReady t.sse) = true ∧ sseReady (stateAt .wP0).sse = true := by decide

/-- `LatchesHaveOneWriter`: a step of the framer that changes each of `rdata`, `rxh`, `rxl`, `sr`, `oe` and `ie`. -/
theorem witness_OneWriter :
    nextHas (step { (stateAt .rRES) with rxl := 0x34#8 }) (fun t => t.rdata != (stateAt .rRES).rdata) = true ∧
    nextHas (step { (stateAt .rRH) with phyIn := answers }) (fun t => t.rxh == 0xA0#8 && t.rxl == 0x00#8) = true ∧
    nextHas (step { (stateAt .rRL) with phyIn := answers }) (fun t => t.rxl == 0xA0#8 && t.rxh == 0x00#8) = true ∧
    nextHas (step { (stateAt .wP0) with phyIn := answers }) (fun t => t.sr == 0xA0#8 && t.sdone) = true ∧
    nextHas (step (stateAt .wOE)) (fun t => t.oe) = true ∧ nextHas (step (stateAt .rDI)) (fun t => !t.ie) = true := by
  decide

/-- `LatchesHaveOneWriter`: a host step that changes each of them. -/
theorem witness_HostWriters :
    nextHas (step (start [.call (.read 0x01#8 0x02#8)] answers false []))
      (fun t => t.rdata != booted.rdata && t.rxh != booted.rxh && t.ie && t.h1 != booted.h1) = true ∧
    nextHas (step (start [.offer (.write 0x01#8 0x00#8 0x1200#16)] answers true []))
      (fun t => t.wd != booted.wd && t.kind != booted.kind) = true ∧
    nextHas (step { State.reset with hostIn := [.init], oe := true }) (fun t => !t.oe) = true := by decide

/-- `ExcludedSoftwareWritesOnlyIe`: the write of either value, and another step. -/
theorem witness_ExcludedSoftware :
    nextHas (step (start [.setIe true] [] false [])) (fun t => t.ie && t.hostIn.isEmpty) = true ∧
    nextHas (step (start [.setIe false] [] true [])) (fun t => !t.ie) = true ∧
    nextHas (step (start [.other] [] true [])) (fun t => t.ie && t.hostIn.isEmpty) = true ∧
    (envMove (start [.other] [] true [])).isNone = true ∧ (start [.other] [] true []).seq = .idle := by decide

/-- `ConsoleWritesToRegisterZero`: both characters. -/
theorem witness_Console :
    ∀ key ∈ [ConsoleKey.lowerX, ConsoleKey.upperX],
      CanCall (start [.console key] [] true []) ∧ (envMove (start [.console key] [] true [])).isNone = true ∧
      (start [.console key] [] true []).hostIn = [.console key] := by decide

/-- `FlagTableIsKept`, `TraceStaysLawful`, `CommandAgreementIsKept`: a lawful state inside a read, and a step from it. -/
theorem witness_Invariants :
    let sent : List Entry := [⟨.xfer 0xFF#8 0x00#8, true, false⟩]
    let s : State := { (stateAt .rH2) with oe := true, ie := false, h1 := 0x60#8, h2 := 0x8A#8, trace := sent }
    FlagsAgree s ∧ TraceLawful s ∧ CommandAgrees s ∧ nextHas (step s) (fun t => t.seq == .rOD) = true := by decide

/-- `ResetWaitsInIdle`: an idle host and a quiet environment after `INIT`. -/
theorem witness_Waits : booted.seq = .idle ∧ booted.hostIn = [] ∧ booted.envIn = [] := by decide

end Sys2Proof.Tests
end

section
/-! PROOFS. The header word: its bits, its fields, its way onto the line (R52 to R55). -/

namespace Sys2Proof.Machine

open Sys2Proof

/-- Header byte 1 from the low end: `PHYAD[4:1]`, `OP`, `ST` (R52, R54). -/
theorem headerByte1_bit (k : Kind) (p : BitVec 8) (n : Nat) (hn : n < 8) :
    (headerByte1 k p).getLsbD n =
      if n < 4 then p.getLsbD (n + 1)
      else if n < 6 then (opField k).getLsbD (n - 4)
      else (0b01#2).getLsbD (n - 6) := by
  simp only [headerByte1, BitVec.getLsbD_or, BitVec.getLsbD_and, BitVec.getLsbD_ushiftRight]
  cases k <;> interval_cases n <;> simp [stBits, opBits, opWriteBits, opReadBits, phyHiMask, opField]

/-- Header byte 2 from the low end: `TA`, `REGAD`, `PHYAD[0]` (R52, R55). -/
theorem headerByte2_bit (p r : BitVec 8) (n : Nat) (hn : n < 8) :
    (headerByte2 p r).getLsbD n =
      if n < 2 then (0b10#2).getLsbD n
      else if n < 7 then r.getLsbD (n - 2)
      else p.getLsbD 0 := by
  simp only [headerByte2, BitVec.getLsbD_or, BitVec.getLsbD_and, BitVec.getLsbD_shiftLeft]
  interval_cases n <;> simp [phyLoMask, regMask, taBits]

/-- The byte formulas pack the header word of the field layout (R52 to R55). -/
theorem headerBytes_append (k : Kind) (p r : BitVec 8) :
    (headerByte1 k p ++ headerByte2 p r : BitVec 16) = headerWord k p r := by
  apply BitVec.eq_of_getLsbD_eq
  intro n hn
  rw [word_bit, headerWord_bit]
  split
  · rw [headerByte2_bit _ _ _ ‹_›]
    interval_cases n <;> simp
  · rw [headerByte1_bit _ _ _ (by omega)]
    interval_cases n <;> simp

/-- Two bytes on the line, high byte first, are the bits of their word from bit 15 down (R33, R52). -/
theorem lineBits_append (a b : BitVec 8) :
    lineBits a ++ lineBits b = (List.range 16).map fun n => (a ++ b : BitVec 16).getLsbD (15 - n) := by
  simp [lineBits, List.range_succ, word_bit]

/-- The fields of the header word (R52, R53). -/
theorem headerWord_fields (k : Kind) (p r : BitVec 8) :
    (headerWord k p r).extractLsb' 14 2 = 0b01#2 ∧ (headerWord k p r).extractLsb' 12 2 = opField k ∧
    (headerWord k p r).extractLsb' 8 4 = p.extractLsb' 1 4 ∧ (headerWord k p r).getLsbD 7 = p.getLsbD 0 ∧
    (headerWord k p r).extractLsb' 2 5 = r.extractLsb' 0 5 ∧ (headerWord k p r).extractLsb' 0 2 = 0b10#2 := by
  refine ⟨?_, ?_, ?_, by rw [headerWord_bit]; simp, ?_, ?_⟩ <;>
  · apply BitVec.eq_of_getLsbD_eq
    intro n hn
    rw [BitVec.getLsbD_extractLsb', headerWord_bit]
    interval_cases n <;> simp

/-- Settles O5: the byte formulas pack the header word, whose fields are compared bit by bit. -/
theorem headerWordHasTheFields : Obligations.HeaderWordHasTheFields := by
  unfold Obligations.HeaderWordHasTheFields
  intro k p r
  obtain ⟨hst, hop, hphy, hphy0, hreg, hta⟩ := headerWord_fields k p r
  have hop' : opField k = if k = .write then 0b01#2 else 0b10#2 := by cases k <;> rfl
  rw [lineBits_append, headerBytes_append]
  exact ⟨rfl, hst, hop.trans hop', hphy, hphy0, hreg, hta, rfl⟩

end Sys2Proof.Machine
end

section
/-! PROOFS. The header bytes as numbers, and the latches of a called command (R54, R55, R101). -/

namespace Sys2Proof.Machine

open Sys2Proof

/-! ### The header bytes as numbers -/

/-- Two values that lie under disjoint masks have no bit in common. -/
theorem and_eq_zero_of_masks {w : Nat} {x y m n : BitVec w} (hx : x &&& m = x) (hy : y &&& n = y)
    (h : m &&& n = 0#w) : x &&& y = 0#w := by
  calc x &&& y = (x &&& m) &&& (y &&& n) := by rw [hx, hy]
    _ = (x &&& y) &&& (m &&& n) := by ac_rfl
    _ = 0#w := by rw [h, BitVec.and_zero]

/-- The terms of header byte 1 are disjoint, so `|` is `+` (R54). -/
theorem headerByte1_eq_add (k : Kind) (p : BitVec 8) :
    headerByte1 k p = stBits + opBits k + ((p >>> 1) &&& phyHiMask) := by
  have hop : stBits &&& opBits k = 0#8 := by cases k <;> decide
  have hmask : (stBits ||| opBits k) &&& phyHiMask = 0#8 := by cases k <;> decide
  have hphy : (stBits ||| opBits k) &&& ((p >>> 1) &&& phyHiMask) = 0#8 :=
    and_eq_zero_of_masks BitVec.and_self (by rw [BitVec.and_assoc, BitVec.and_self]) hmask
  rw [headerByte1, BitVec.add_eq_or_of_and_eq_zero _ _ hop, BitVec.add_eq_or_of_and_eq_zero _ _ hphy]

/-- The terms of header byte 2 are disjoint, so `|` is `+` (R55). -/
theorem headerByte2_eq_add (p r : BitVec 8) :
    headerByte2 p r = ((p &&& phyLoMask) <<< 7) + ((r <<< 2) &&& regMask) + taBits := by
  have hphy : ((p &&& phyLoMask) <<< 7) &&& 0x80#8 = (p &&& phyLoMask) <<< 7 := by
    rw [BitVec.shiftLeft_and_distrib, BitVec.and_assoc]; rfl
  have hreg : ((r <<< 2) &&& regMask) &&& regMask = (r <<< 2) &&& regMask := by
    rw [BitVec.and_assoc, BitVec.and_self]
  have hterms : ((p &&& phyLoMask) <<< 7) &&& ((r <<< 2) &&& regMask) = 0#8 :=
    and_eq_zero_of_masks hphy hreg (by decide)
  have hta : (((p &&& phyLoMask) <<< 7) ||| ((r <<< 2) &&& regMask)) &&& taBits = 0#8 := by
    rw [BitVec.and_or_distrib_right, and_eq_zero_of_masks hphy BitVec.and_self (by decide),
      and_eq_zero_of_masks hreg BitVec.and_self (by decide), BitVec.or_zero]
  rw [headerByte2, BitVec.add_eq_or_of_and_eq_zero _ _ hterms, BitVec.add_eq_or_of_and_eq_zero _ _ hta]

/-- The formula of header byte 1 on unbounded naturals (R54). -/
theorem headerByte1_toNat (k : Kind) (p : BitVec 8) :
    (headerByte1 k p).toNat = 0x40 ||| (opBits k).toNat ||| ((p.toNat >>> 1) &&& 0x0F) := by
  simp [headerByte1, stBits, phyHiMask]

/-- The formula of header byte 2 on unbounded naturals: neither shift loses a bit that the byte keeps (R55). -/
theorem headerByte2_toNat (p r : BitVec 8) :
    (headerByte2 p r).toNat = ((p.toNat &&& 0x01) <<< 7) ||| ((r.toNat <<< 2) &&& 0x7C) ||| 0x02 := by
  have hphy : ((p &&& phyLoMask) <<< 7).toNat = (p.toNat &&& 0x01) <<< 7 := by
    simp only [phyLoMask, BitVec.toNat_shiftLeft, BitVec.toNat_and, BitVec.toNat_ofNat, Nat.reducePow, Nat.reduceMod,
      Nat.and_one_is_mod, Nat.shiftLeft_eq]
    omega
  have hreg : ((r <<< 2) &&& regMask).toNat = (r.toNat <<< 2) &&& 0x7C := by
    rw [BitVec.toNat_and, BitVec.toNat_shiftLeft, ← Nat.and_two_pow_sub_one_eq_mod, Nat.and_assoc]
    rfl
  rw [headerByte2, BitVec.toNat_or, BitVec.toNat_or, hphy, hreg]
  rfl

/-- Header byte 1 lies in the sixteen values its constant bits leave (R54). -/
theorem headerByte1_range (k : Kind) (p : BitVec 8) :
    0x40 + (opBits k).toNat ≤ (headerByte1 k p).toNat ∧
      (headerByte1 k p).toNat ≤ 0x40 + (opBits k).toNat + 0x0F := by
  have hphy : ((p >>> 1) &&& phyHiMask).toNat ≤ 0x0F := by
    rw [BitVec.toNat_and]; exact Nat.and_le_right
  have hst : stBits.toNat = 0x40 := rfl
  have hop : (opBits k).toNat ≤ 0x20 := by cases k <;> decide
  rw [headerByte1_eq_add, BitVec.toNat_add, BitVec.toNat_add]
  omega

/-- The constant bits of the header bytes: bit 7 of the first, the turnaround in the second (R54, R55). -/
theorem headerBytes_constantBits (k : Kind) (p r : BitVec 8) :
    (headerByte1 k p).getLsbD 7 = false ∧ (headerByte2 p r).getLsbD 0 = false ∧
      (headerByte2 p r).getLsbD 1 = true :=
  ⟨headerByte1_bit k p 7 (by decide), headerByte2_bit p r 0 (by decide), headerByte2_bit p r 1 (by decide)⟩

/-- The mask law of the register address, for every width (R55). -/
theorem shiftLeft_two_and_regMask (n : Nat) : (n <<< 2) &&& 0x7C = (n &&& 0x1F) <<< 2 := by
  rw [Nat.shiftLeft_and_distrib, show 0x1F <<< 2 = 0x7C from rfl]

/-! ### The latches of a called command -/

/-- The environment's moves before an event leave the sequencer state and the latches of the command (R107). -/
theorem envDrain_latches (s : State) :
    (envDrain s).seq = s.seq ∧ (envDrain s).kind = s.kind ∧ (envDrain s).h1 = s.h1 ∧ (envDrain s).h2 = s.h2 ∧
      (envDrain s).wd = s.wd := by
  obtain ⟨rest, p, n, he, -⟩ := envDrain_spec s
  simp [he]

/-- No transition of the framer writes a latch of the command: they are written at `Accept` alone (R12, R46). -/
theorem framerAct_latches (s : State) :
    (framerAct s).kind = s.kind ∧ (framerAct s).h1 = s.h1 ∧ (framerAct s).h2 = s.h2 ∧ (framerAct s).wd = s.wd := by
  unfold framerAct
  split <;> simp [receiveHigh, receiveLow]

/-- The latches of a command stay through its events (R12, R46). -/
theorem framerRun_latches (k : Nat) (s : State) :
    (framerRun k s).kind = s.kind ∧ (framerRun k s).h1 = s.h1 ∧ (framerRun k s).h2 = s.h2 ∧
      (framerRun k s).wd = s.wd := by
  induction k generalizing s with
  | zero => exact ⟨rfl, rfl, rfl, rfl⟩
  | succ k ih =>
    obtain ⟨-, hk, h1, h2, hd⟩ := envDrain_latches s
    simpa [framerRun, framerAct_latches, hk, h1, h2, hd] using ih (framerAct (envDrain s))

/-- `Accept` latches the kind and the two header bytes of its command (R101). -/
theorem accept_latches (i : Instr) (s : State) :
    (accept i s).kind = i.kind ∧ (accept i s).h1 = headerByte1 i.kind i.phyAddr ∧
      (accept i s).h2 = headerByte2 i.phyAddr i.regAddr := by
  cases i <;> exact ⟨rfl, rfl, rfl⟩

/-- The number of events of a command after its `Accept` (R110). -/
def pathLength : Kind → Nat
  | .write => 12
  | .read => 13

/-- A callable command runs through its `Accept` and every event of its path (R80, R110). -/
theorem exec_ready (i : Instr) {s : State} (h : CanCall s) :
    exec i s = .next (framerRun (pathLength i.kind) (accept i s)) := by
  cases i <;> exact runCommand_ready h

/-- A called command returns with its own header bytes in `h1` and `h2` (R54, R55). -/
theorem exec_headerBytes (i : Instr) {s : State} (h : CanCall s) :
    ∃ t, exec i s = .next t ∧ t.h1 = headerByte1 i.kind i.phyAddr ∧ t.h2 = headerByte2 i.phyAddr i.regAddr := by
  obtain ⟨-, h1, h2, -⟩ := framerRun_latches (pathLength i.kind) (accept i s)
  obtain ⟨-, h1', h2'⟩ := accept_latches i s
  exact ⟨_, exec_ready i h, h1.trans h1', h2.trans h2'⟩

/-- The header bytes after a called command as numbers, with their ranges and constant bits (R54, R55). -/
theorem exec_headerBytes_toNat (i : Instr) {s : State} (h : CanCall s) :
    ∃ t, exec i s = .next t ∧
      t.h1.toNat = 0x40 ||| (opBits i.kind).toNat ||| ((i.phyAddr.toNat >>> 1) &&& 0x0F) ∧
      t.h2.toNat = ((i.phyAddr.toNat &&& 0x01) <<< 7) ||| ((i.regAddr.toNat <<< 2) &&& 0x7C) ||| 0x02 ∧
      t.h1.getLsbD 7 = false ∧ 0x40 + (opBits i.kind).toNat ≤ t.h1.toNat ∧
      t.h1.toNat ≤ 0x40 + (opBits i.kind).toNat + 0x0F ∧ t.h2.getLsbD 0 = false ∧ t.h2.getLsbD 1 = true := by
  obtain ⟨t, ht, h1, h2⟩ := exec_headerBytes i h
  obtain ⟨hlow, hhigh⟩ := headerByte1_range i.kind i.phyAddr
  obtain ⟨hst, hta0, hta1⟩ := headerBytes_constantBits i.kind i.phyAddr i.regAddr
  rw [← h1] at hlow hhigh hst
  rw [← h2] at hta0 hta1
  exact ⟨t, ht, h1 ▸ headerByte1_toNat _ _, h2 ▸ headerByte2_toNat _ _, hst, hlow, hhigh, hta0, hta1⟩

/-- Settles O6: the latches of `Accept` stay to the end of the call, and the terms of each formula lie under disjoint
masks. -/
theorem headerBytesFollowTheFormulas : Obligations.HeaderBytesFollowTheFormulas := by
  unfold Obligations.HeaderBytesFollowTheFormulas
  intro p r d s hcall
  exact ⟨exec_headerBytes_toNat (.write p r d) hcall, exec_headerBytes_toNat (.read p r) hcall,
    headerByte1_eq_add .write p, headerByte1_eq_add .read p, headerByte2_eq_add p r, shiftLeft_two_and_regMask⟩

end Sys2Proof.Machine
end

section
/-! PROOFS. The bytes a called command sends, and the data of a `WRITE` among them (R50, R51, R57). -/

namespace Sys2Proof.Machine

open Sys2Proof

/-- From `s` to `t` the trace has only grown, and the new entries send exactly the bytes `bs`. -/
def Sends (s t : State) (bs : List Byte) : Prop :=
  ∃ es, t.trace = s.trace ++ es ∧ sentBytes es = bs

/-- What is sent in a row of runs is sent in their order. -/
theorem Sends.trans {s t u : State} {bs cs : List Byte} (h : Sends s t bs) (h' : Sends t u cs) :
    Sends s u (bs ++ cs) := by
  obtain ⟨es, he, rfl⟩ := h
  obtain ⟨fs, hf, rfl⟩ := h'
  exact ⟨es ++ fs, by rw [hf, he, List.append_assoc], by simp [sentBytes]⟩

/-- `Sends` speaks of the entries the statements call new. -/
theorem Sends.sentBytes_newEntries {s t : State} {bs : List Byte} (h : Sends s t bs) :
    sentBytes (newEntries s t) = bs := by
  obtain ⟨es, he, hb⟩ := h
  rw [newEntries, he, List.drop_left, hb]

/-- Handler runs send nothing (R107). -/
theorem envDrain_sends (s : State) : Sends s (envDrain s) [] := by
  obtain ⟨rest, p, n, he, -⟩ := envDrain_spec s
  exact ⟨isrRuns n s.oe s.ie, by rw [he], by simp [sentBytes, isrRuns, sentByte]⟩

/-- `Accept` sends nothing (R101). -/
theorem accept_sends (i : Instr) (s : State) : Sends s (accept i s) [] := by
  cases i <;> exact ⟨[_], rfl, rfl⟩

/-- The state after each transition of the framer (R104, R105). -/
def nextSeq : Seq → Seq
  | .idle => .idle
  | .wDI => .wOE | .wOE => .wP0 | .wP0 => .wP1 | .wP1 => .wP2 | .wP2 => .wP3 | .wP3 => .wH1 | .wH1 => .wH2
  | .wH2 => .wDH | .wDH => .wDL | .wDL => .wOD | .wOD => .wEI | .wEI => .idle
  | .rOE => .rDI | .rDI => .rP0 | .rP0 => .rP1 | .rP1 => .rP2 | .rP2 => .rP3 | .rP3 => .rH1 | .rH1 => .rH2
  | .rH2 => .rOD | .rOD => .rRH | .rRH => .rRL | .rRL => .rEI | .rEI => .rRES | .rRES => .idle

/-- The byte each transition sends, from the latches `h1`, `h2` and `wd`; none where it is no `Xfer` (R104, R105). -/
def slotByte (h1 h2 : Byte) (wd : Word16) : Seq → List Byte
  | .wP0 | .wP1 | .wP2 | .wP3 | .rP0 | .rP1 | .rP2 | .rP3 => [preambleByte]
  | .wH1 | .rH1 => [h1]
  | .wH2 | .rH2 => [h2]
  | .wDH => [dataHigh wd]
  | .wDL => [dataLow wd]
  | .rRH | .rRL => [dummyByte]
  | .idle | .wDI | .wOE | .wOD | .wEI | .rOE | .rDI | .rOD | .rEI | .rRES => []

/-- The bytes of `k` transitions of the framer from a sequencer state on. -/
def pathBytes (h1 h2 : Byte) (wd : Word16) : Nat → Seq → List Byte
  | 0, _ => []
  | k + 1, q => slotByte h1 h2 wd q ++ pathBytes h1 h2 wd k (nextSeq q)

/-- A transition leads to the next state of its path (R104, R105). -/
theorem framerAct_seq (s : State) : (framerAct s).seq = nextSeq s.seq := by
  unfold framerAct
  split <;> simp [nextSeq, *]

/-- The sequencer's advance sends nothing. -/
theorem Sends.goto {s t : State} {bs : List Byte} (h : Sends s t bs) (q : Seq) : Sends s (goto q t) bs := h

/-- A `TRANSCEIVE` sends its byte (R70). -/
theorem transceive_sends (tx : Byte) (s : State) : Sends s (transceive tx s) [tx] :=
  ⟨_, transceive_trace tx s, rfl⟩

/-- A read's two received bytes are exchanged for dummy bytes (R65, R105). -/
theorem receiveHigh_sends (s : State) : Sends s (receiveHigh s) [dummyByte] := transceive_sends dummyByte s

/-- As `receiveHigh_sends`, for the low byte. -/
theorem receiveLow_sends (s : State) : Sends s (receiveLow s) [dummyByte] := transceive_sends dummyByte s

/-- A transition sends the byte of its slot, or nothing where it is no `Xfer` (R104, R105). -/
theorem framerAct_sends (s : State) : Sends s (framerAct s) (slotByte s.h1 s.h2 s.wd s.seq) := by
  unfold framerAct
  cases s.seq
  case idle => exact ⟨[], (List.append_nil _).symm, rfl⟩
  case wDI | wOE | wOD | wEI | rOE | rDI | rOD | rEI | rRES => exact ⟨[_], rfl, rfl⟩
  case rRH => exact (receiveHigh_sends s).goto _
  case rRL => exact (receiveLow_sends s).goto _
  all_goals exact (transceive_sends _ s).goto _

/-- A run of the framer sends the bytes of its path, whatever the environment does between the events (R86, R92). -/
theorem framerRun_sends (k : Nat) (s : State) :
    Sends s (framerRun k s) (pathBytes s.h1 s.h2 s.wd k s.seq) := by
  induction k generalizing s with
  | zero => exact ⟨[], (List.append_nil _).symm, rfl⟩
  | succ k ih =>
    obtain ⟨hq, -, h1, h2, hd⟩ := envDrain_latches s
    have hact := framerAct_sends (envDrain s)
    have hrest := ih (framerAct (envDrain s))
    obtain ⟨-, h1', h2', hd'⟩ := framerAct_latches (envDrain s)
    rw [h1', h2', hd', framerAct_seq] at hrest
    rw [h1, h2, hd, hq] at hact hrest
    exact (envDrain_sends s).trans (hact.trans hrest)

/-- A called command sends the preamble, its two header bytes and its two data slots (R50, R51). -/
theorem exec_sentBytes (i : Instr) {s : State} (h : CanCall s) :
    ∃ t, exec i s = .next t ∧ sentBytes (newEntries s t) =
      [preambleByte, preambleByte, preambleByte, preambleByte,
        headerByte1 i.kind i.phyAddr, headerByte2 i.phyAddr i.regAddr] ++ dataSlots i := by
  refine ⟨_, exec_ready i h, ?_⟩
  rw [((accept_sends i s).trans (framerRun_sends _ _)).sentBytes_newEntries]
  cases i <;> rfl

/-- The high byte of the data by shift and mask (R57). -/
theorem dataHigh_toNat (d : Word16) : (dataHigh d).toNat = (d.toNat >>> 8) &&& 0xFF := by
  rw [dataHigh, BitVec.extractLsb'_toNat, ← Nat.and_two_pow_sub_one_eq_mod]

/-- The low byte of the data by the mask (R57). -/
theorem dataLow_toNat (d : Word16) : (dataLow d).toNat = d.toNat &&& 0xFF := by
  rw [dataLow, BitVec.extractLsb'_toNat, Nat.shiftRight_zero, ← Nat.and_two_pow_sub_one_eq_mod]

/-- Settles O10: the bytes a `WRITE` sends after the first six are its two data slots. -/
theorem writeDataGoesHighByteFirst : Obligations.WriteDataGoesHighByteFirst := by
  unfold Obligations.WriteDataGoesHighByteFirst
  intro p r d s hcall
  obtain ⟨t, ht, hsent⟩ := exec_sentBytes (.write p r d) hcall
  refine ⟨t, dataHigh d, dataLow d, ht, ?_, rfl, rfl, dataHigh_toNat d, dataLow_toNat d⟩
  rw [hsent]
  rfl

end Sys2Proof.Machine
end

section
/-! PROOFS. The line decoder and the encoder undo each other, and the decoder's refusals have their names (R50 to R53,
R60, R61). -/

namespace Sys2Proof.Machine

open Sys2Proof

/-! ### The fields of a header word -/

/-- `PHYAD` of a packed header word is the low five bits of the operand (R52, R56). -/
theorem phyField_headerWord (k : Kind) (p r : BitVec 8) : phyField (headerWord k p r) = p &&& 0x1F#8 := by
  apply BitVec.eq_of_getLsbD_eq
  intro n hn
  rw [phyField, BitVec.getLsbD_setWidth, BitVec.getLsbD_extractLsb', headerWord_bit, BitVec.getLsbD_and]
  interval_cases n <;> simp

/-- `REGAD` of a packed header word is the low five bits of the operand (R52, R56). -/
theorem regField_headerWord (k : Kind) (p r : BitVec 8) : regField (headerWord k p r) = r &&& 0x1F#8 := by
  apply BitVec.eq_of_getLsbD_eq
  intro n hn
  rw [regField, BitVec.getLsbD_setWidth, BitVec.getLsbD_extractLsb', headerWord_bit, BitVec.getLsbD_and]
  interval_cases n <;> simp

/-- A header word of a row's pattern is packed from that row's kind and its own address fields (R52, R60). -/
theorem headerWord_of_match {k : Kind} {h : BitVec 16} (hm : h &&& headerMask = headerMatch k) :
    headerWord k (phyField h) (regField h) = h := by
  have hfixed (n : Nat) : (h.getLsbD n && headerMask.getLsbD n) = (headerMatch k).getLsbD n := by
    rw [← hm, BitVec.getLsbD_and]
  apply BitVec.eq_of_getLsbD_eq
  intro n hn
  have hbit := hfixed n
  rw [headerWord_bit]
  cases k <;> interval_cases n <;> simp_all [headerMask, headerMatch, phyField, regField, opField]

/-- A header word of a row's pattern has that row's `ST`, `OP` and `TA` (R52, R60). -/
theorem fields_of_match {k : Kind} {h : BitVec 16} (hm : h &&& headerMask = headerMatch k) :
    h.extractLsb' 14 2 = 0b01#2 ∧ h.extractLsb' 12 2 = opField k ∧ h.extractLsb' 0 2 = 0b10#2 := by
  obtain ⟨hst, hop, -, -, -, hta⟩ := headerWord_fields k (phyField h) (regField h)
  rw [headerWord_of_match hm] at hst hop hta
  exact ⟨hst, hop, hta⟩

/-- The latched header word of every command has the pattern of its row (R60, R61). -/
theorem headerBytes_match (k : Kind) (p r : BitVec 8) :
    (headerByte1 k p ++ headerByte2 p r : BitVec 16) &&& headerMask = headerMatch k := by
  rw [headerBytes_append, headerWord_match]

/-- A five-bit field as an operand fits its field. -/
theorem addrFits_setWidth (f : BitVec 5) : addrFits (f.setWidth 8) = true := by
  have := f.isLt
  simp only [addrFits, BitVec.toNat_setWidth, decide_eq_true_eq]
  omega

/-- An operand that fits its field is its low five bits. -/
theorem and_lowFive_of_fits {a : AddrOperand} (h : addrFits a = true) : a &&& 0x1F#8 = a := by
  have h32 : a.toNat < 2 ^ 5 := by simpa [addrFits] using h
  apply BitVec.eq_of_toNat_eq
  rw [BitVec.toNat_and]
  exact (Nat.and_two_pow_sub_one_eq_mod a.toNat 5).trans (Nat.mod_eq_of_lt h32)

/-! ### Decoding an encoding -/

/-- A command whose operands fit is its own canonical spelling. -/
theorem canonical_of_wf {i : Instr} (h : i.wf = true) : canonical i = i := by
  cases i <;>
  · simp only [Instr.wf, Bool.and_eq_true] at h
    rw [canonical, and_lowFive_of_fits h.1, and_lowFive_of_fits h.2]

/-- The frame of a command by the byte formulas (R50, R51, R54, R55). -/
theorem encode_eq (i : Instr) :
    encode i = [preambleByte, preambleByte, preambleByte, preambleByte,
      headerByte1 i.kind i.phyAddr, headerByte2 i.phyAddr i.regAddr] ++ dataSlots i := by
  have h1 : (headerWord i.kind i.phyAddr i.regAddr).extractLsb' 8 8 = headerByte1 i.kind i.phyAddr := by
    rw [← headerBytes_append]
    exact BitVec.extractLsb'_append_eq_left
  have h2 : (headerWord i.kind i.phyAddr i.regAddr).extractLsb' 0 8 = headerByte2 i.phyAddr i.regAddr := by
    rw [← headerBytes_append]
    exact BitVec.extractLsb'_append_eq_right
  rw [encode, h1, h2]

/-- Behind a full preamble the decoder is the opcode map on the header word (R50, R60). -/
theorem decodeFrame_preamble (h1 h2 dh dl : Byte) :
    decodeFrame [preambleByte, preambleByte, preambleByte, preambleByte, h1, h2, dh, dl] =
      decodeHeader (h1 ++ h2) (dh ++ dl) := by
  rw [decodeFrame, if_pos ⟨rfl, rfl, rfl, rfl⟩]

/-- The line decoder reads from the frame of a command that command, its operands cut to five bits (R56, R60). -/
theorem decodeFrame_encode (i : Instr) : decodeFrame (encode i) = .ok (canonical i) := by
  rw [encode_eq]
  cases i with
  | write p r d =>
    refine (decodeFrame_preamble _ _ _ _).trans ?_
    rw [word_halves, headerBytes_append, decodeHeader, phyField_headerWord, regField_headerWord]
    exact if_pos (headerWord_match .write p r)
  | read p r =>
    refine (decodeFrame_preamble _ _ _ _).trans ?_
    rw [headerBytes_append, decodeHeader, phyField_headerWord, regField_headerWord]
    have hother : headerWord .read p r &&& headerMask ≠ headerMatch .write := by
      rw [headerWord_match]
      exact fun h => nomatch headerMatch_distinct _ _ h
    exact (if_neg hother).trans (if_pos (headerWord_match .read p r))

/-- Settles O1: the decoder gives the canonical spelling, which is the command itself where its operands fit. -/
theorem decodeOfEncodeIsTheCommand : Obligations.DecodeOfEncodeIsTheCommand := by
  unfold Obligations.DecodeOfEncodeIsTheCommand
  intro i hwf
  rw [decodeFrame_encode, canonical_of_wf hwf]

/-- Settles O16: the sent bytes are the encoding by the byte formulas, and the encoding decodes. -/
theorem sentFrameIsTheEncoding : Obligations.SentFrameIsTheEncoding := by
  unfold Obligations.SentFrameIsTheEncoding
  intro i s hcall
  obtain ⟨t, ht, hsent⟩ := exec_sentBytes i hcall
  rw [← encode_eq] at hsent
  exact ⟨t, ht, hsent, by rw [hsent, decodeFrame_encode]⟩

/-! ### Encoding what was decoded -/

/-- A header word that decodes has a row's pattern, and the command is read from its fields (R60). -/
theorem decodeHeader_ok {h data : BitVec 16} {i : Instr} (hd : decodeHeader h data = .ok i) :
    h &&& headerMask = headerMatch i.kind ∧ i.phyAddr = phyField h ∧ i.regAddr = regField h ∧
      i.wf = true ∧ (i.kind = .write → dataSlots i = [data.extractLsb' 8 8, data.extractLsb' 0 8]) := by
  have hfit : (addrFits (phyField h) && addrFits (regField h)) = true := by
    rw [phyField, regField, addrFits_setWidth, addrFits_setWidth]; rfl
  unfold decodeHeader at hd
  split at hd
  · next hm => cases hd; exact ⟨hm, rfl, rfl, hfit, fun _ => rfl⟩
  · split at hd
    · next hm => cases hd; exact ⟨hm, rfl, rfl, hfit, by simp [Instr.kind]⟩
    · cases hd

/-- Bytes that decode are a preamble, a header word that decodes, and two data slots (R50, R60). -/
theorem decodeFrame_ok {bs : List Byte} {i : Instr} (hd : decodeFrame bs = .ok i) :
    ∃ h1 h2 dh dl, bs = [preambleByte, preambleByte, preambleByte, preambleByte, h1, h2, dh, dl] ∧
      decodeHeader (h1 ++ h2) (dh ++ dl) = .ok i := by
  unfold decodeFrame at hd
  split at hd
  · split at hd
    · next hpre =>
      obtain ⟨rfl, rfl, rfl, rfl⟩ := hpre
      exact ⟨_, _, _, _, rfl, hd⟩
    · cases hd
  · cases hd

/-- Settles O2: the header word is packed again from the fields the decoder read. -/
theorem decodedFrameEncodesBack : Obligations.DecodedFrameEncodesBack := by
  unfold Obligations.DecodedFrameEncodesBack
  intro bs i hd
  obtain ⟨h1, h2, dh, dl, rfl, hdec⟩ := decodeFrame_ok hd
  obtain ⟨hm, hphy, hreg, hwf, hdata⟩ := decodeHeader_ok hdec
  have hencode : encode i = [preambleByte, preambleByte, preambleByte, preambleByte, h1, h2] ++ dataSlots i := by
    rw [encode, hphy, hreg, headerWord_of_match hm]
    simp only [BitVec.extractLsb'_append_eq_left (a := h1) (b := h2),
      BitVec.extractLsb'_append_eq_right (a := h1) (b := h2)]
  refine ⟨rfl, hwf, by rw [hencode]; rfl, fun hk => ?_⟩
  rw [hencode, hdata hk, BitVec.extractLsb'_append_eq_left (a := dh), BitVec.extractLsb'_append_eq_right (b := dl)]
  rfl

/-! ### Refusals -/

/-- A header word without a row's pattern is refused by the name of its first wrong field (R61). -/
theorem decodeHeader_error {h : BitVec 16} (data : BitVec 16) (hno : ∀ k, h &&& headerMask ≠ headerMatch k) :
    decodeHeader h data = .error (headerError h) := by
  rw [decodeHeader, if_neg (hno .write), if_neg (hno .read)]

/-- Eight bytes with a full preamble and a header word without a row's pattern are refused, decoded or called (U18). -/
theorem frame_refused {h1 h2 : Byte} (dh dl : Byte) (s : State)
    (hno : ∀ k, (h1 ++ h2 : BitVec 16) &&& headerMask ≠ headerMatch k) :
    let bs := [0xFF#8, 0xFF#8, 0xFF#8, 0xFF#8, h1, h2, dh, dl]
    decodeFrame bs = .error (headerError (h1 ++ h2)) ∧
      callFrame bs s = .refused (.reservedFrame (headerError (h1 ++ h2))) := by
  intro bs
  have hdec : decodeFrame bs = .error (headerError (h1 ++ h2)) :=
    (decodeFrame_preamble h1 h2 dh dl).trans (decodeHeader_error _ hno)
  exact ⟨hdec, by rw [callFrame, hdec]⟩

/-- Settles O4: a header word with a wrong field has no row's pattern, and `headerError` looks at the fields in
order. -/
theorem reservedHeadersAreRefused : Obligations.ReservedHeadersAreRefused := by
  unfold Obligations.ReservedHeadersAreRefused
  intro h1 h2 d1 d2 s H bs refusedAs
  have hrefused {e : DecodeError} (hno : ∀ k, H &&& headerMask ≠ headerMatch k) (he : headerError H = e) :
      refusedAs e := he ▸ frame_refused d1 d2 s hno
  refine ⟨fun hst => ?_, fun hst hop => ?_, fun hst hop hta => ?_⟩
  · refine hrefused (fun k hm => ?_) (by simp [headerError, hst])
    obtain ⟨hst', -, -⟩ := fields_of_match hm
    exact hst hst'
  · refine hrefused (fun k hm => ?_) (by rcases hop with hop | hop <;> simp [headerError, hst, hop])
    obtain ⟨-, hop', -⟩ := fields_of_match hm
    rw [hop'] at hop
    cases k <;> simp [opField] at hop
  · refine hrefused (fun k hm => ?_) (by rcases hop with hop | hop <;> simp [headerError, hst, hop])
    obtain ⟨-, -, hta'⟩ := fields_of_match hm
    exact hta hta'

end Sys2Proof.Machine
end

section
/-! PROOFS. TRANSCEIVE in the terms of the statements, and one equation for every transition of the framer (R70, R104,
R105). -/

namespace Sys2Proof.Machine

open Sys2Proof

/-! ### TRANSCEIVE -/

/-- TRANSCEIVE moves one byte each way and records it (R70, R74). -/
theorem transceive_eq_shifted (tx : Byte) (s : State) :
    transceive tx s = { shifted s with trace := s.trace ++ [⟨.xfer tx (rxAt s 0), s.oe, s.ie⟩] } := by
  rw [transceive_eq, nextRx_eq_rxAt]
  rcases h : s.phyIn with _ | ⟨b, bs⟩ <;> simp [shifted, h]

/-- Settles O33: the engine's bit-cells send bit 7 first, and the call is `shifted` with its entry in the trace. -/
theorem transceiveIsFullDuplex : Obligations.TransceiveIsFullDuplex := by
  unfold Obligations.TransceiveIsFullDuplex
  intro tx s
  exact ⟨by rw [shiftCells_lineBits], by rw [transceive_sr, nextRx_eq_rxAt], transceive_sdone tx s,
    rxAt_transceive tx s, transceive_eq_shifted tx s⟩

/-- The result of a read is its two received bytes side by side (R58). -/
theorem composeResult_eq_append (high low : Byte) : composeResult high low = high ++ low := by
  apply BitVec.eq_of_getLsbD_eq
  intro n hn
  rw [word_bit]
  simp only [composeResult, BitVec.getLsbD_or, BitVec.getLsbD_shiftLeft, BitVec.getLsbD_setWidth]
  interval_cases n <;> simp

/-! ### The transitions of the framer -/

/-- The action of the transition from each sequencer state (R104, R105). -/
def rowState (s : State) : State :=
  match s.seq with
  | .idle => s
  | .wDI | .rDI => { s with ie := false }
  | .wOE | .rOE => { s with oe := true }
  | .wP0 | .wP1 | .wP2 | .wP3 | .wH1 | .wH2 | .wDH | .wDL => shifted s
  | .rP0 | .rP1 | .rP2 | .rP3 | .rH1 | .rH2 => shifted s
  | .wOD | .rOD => { s with oe := false }
  | .rRH => { shifted s with rxh := rxAt s 0 }
  | .rRL => { shifted s with rxl := rxAt s 0 }
  | .wEI | .rEI => { s with ie := true }
  | .rRES => { s with rdata := s.rxh ++ s.rxl }

/-- The event of the transition from each sequencer state, none in `IDLE` (R104, R105). -/
def rowEvents (s : State) : List Event :=
  match s.seq with
  | .idle => []
  | .wDI | .rDI => [.irqOff]
  | .wOE | .rOE => [.oeOn]
  | .wOD | .rOD => [.oeOff]
  | .wEI | .rEI => [.irqOn]
  | .rRES => [.deliver (s.rxh ++ s.rxl)]
  | q => (slotByte s.h1 s.h2 s.wd q).map fun tx => .xfer tx (rxAt s 0)

/-- Every transition of the framer: its row's action, successor and event, the event with the flags after it, and
nothing else (R104, R105). -/
theorem framerAct_eq (s : State) :
    framerAct s =
      { rowState s with
        seq := nextSeq s.seq
        trace := s.trace ++ (rowEvents s).map fun e => ⟨e, (rowState s).oe, (rowState s).ie⟩ } := by
  unfold framerAct
  cases hq : s.seq <;> simp only [rowState, rowEvents, slotByte, hq]
  case idle => simp [nextSeq, ← hq]
  case rRES => rw [← composeResult_eq_append]; rfl
  case rRH | rRL => simp only [receiveHigh, receiveLow, transceive_eq_shifted]; rfl
  case wDI | wOE | wOD | wEI | rOE | rDI | rOD | rEI => rfl
  all_goals rw [transceive_eq_shifted]; rfl

/-- With a configured engine each transition is a row of R104 or R105 with its single event. -/
theorem rowHolds_of_rowEvents {s : State} {e : Event} (hr : sseReady s.sse = true) (he : rowEvents s = [e]) :
    RowHolds s e (nextSeq s.seq) (rowState s) := by
  rw [RowHolds, framerStep_ready hr, framerAct_eq, he]
  rfl

/-- Settles O22: each row is `framerAct_eq` in its sequencer state. -/
theorem writePathTransitions : Obligations.WritePathTransitions := by
  unfold Obligations.WritePathTransitions
  intro s hr
  refine ⟨?_, ?_, ?_, ?_, ?_, ?_, ?_, ?_, ?_, ?_, ?_, ?_⟩ <;>
  · intro hq
    have hrow e := rowHolds_of_rowEvents (e := e) hr
    simp only [rowEvents, rowState, nextSeq, slotByte, hq] at hrow
    exact hrow _ rfl

/-- Settles O23: each row is `framerAct_eq` in its sequencer state. -/
theorem readPathTransitions : Obligations.ReadPathTransitions := by
  unfold Obligations.ReadPathTransitions
  intro s hr
  refine ⟨?_, ?_, ?_, ?_, ?_, ?_, ?_, ?_, ?_, ?_, ?_, ?_, ?_⟩ <;>
  · intro hq
    have hrow e := rowHolds_of_rowEvents (e := e) hr
    simp only [rowEvents, rowState, nextSeq, slotByte, hq] at hrow
    exact hrow _ rfl

end Sys2Proof.Machine
end

section
/-! PROOFS. What a step of the system can be, and the three invariants (R61, R97, R102, R112, R124). -/

namespace Sys2Proof.Machine

open Sys2Proof

/-! ### Steps of the system -/

/-- Letting the others move leaves every field but the environment's script. -/
theorem envPass_eq (s : State) : envPass s = { s with envIn := (envPass s).envIn } := by
  obtain ⟨rest, he⟩ := envPass_spec s
  rw [he]

/-- While busy with no enabled move of the environment the framer steps (R107). -/
theorem step_of_busy {s : State} (hq : s.seq ≠ .idle) (he : envMove s = none) :
    step s = framerStep (envPass s) := by
  have hb : busy s = true := by simp [busy, hq]
  simp [step, systemStep, he, hb]

/-- In `IDLE` with no enabled move of the environment the host steps (R100, R108). -/
theorem step_of_idle {s : State} (hq : s.seq = .idle) (he : envMove s = none) : step s = hostStep (envPass s) := by
  simp [step, systemStep, he, busy, hq]

/-- An enabled move of the environment is the step. -/
theorem step_of_envMove {s t : State} (he : envMove s = some t) : step s = .next t := by
  simp [step, systemStep, he]

/-- A step that goes on is a move of the environment, the framer's transition while busy, or the host's step in `IDLE`
(R100, R107, R108). -/
theorem step_next {s t : State} (h : step s = .next t) :
    envMove s = some t ∨
      (s.seq ≠ .idle ∧ envMove s = none ∧ (shifts s.seq = true → sseReady s.sse = true) ∧ t = framerAct (envPass s)) ∨
      (s.seq = .idle ∧ envMove s = none ∧ hostStep (envPass s) = .next t) := by
  rcases he : envMove s with _ | u
  · by_cases hq : s.seq = .idle
    · exact .inr (.inr ⟨hq, rfl, step_of_idle hq he ▸ h⟩)
    · rw [step_of_busy hq he] at h
      obtain ⟨ht, hr⟩ := framerStep_next h
      rw [envPass_eq] at hr
      exact .inr (.inl ⟨hq, rfl, hr, ht⟩)
  · rw [step_of_envMove he] at h
    cases h
    exact .inl rfl

/-- A call that answers a next state was callable, and that state is the end of its path. -/
theorem exec_next {i : Instr} {s t : State} (h : exec i s = .next t) :
    CanCall s ∧ t = framerRun (pathLength i.kind) (accept i s) := by
  cases i <;> exact runCommand_next h

/-- In `IDLE` the framer has no transition. -/
theorem framerAct_idle {s : State} (hq : s.seq = .idle) : framerAct s = s := by
  simp [framerAct, hq]

/-! ### Properties that every agent keeps -/

/-- Each thing an agent can do keeps `P`: the inputs and `irq_pending`, a handler run, the framer's transition, an
`Accept`, `INIT`, and a write of `ie` by excluded software. -/
structure KeptByAgents (P : State → Prop) : Prop where
  inputs : ∀ s env pending host got, P s →
    P { s with envIn := env, irqPending := pending, hostIn := host, hostGot := got }
  isr : ∀ s n, s.ie = true → P s → P (isrStep n s)
  act : ∀ s, s.seq ≠ .idle → P s → P (framerAct s)
  accept : ∀ s i, CanCall s → P s → P (accept i s)
  init : ∀ s, s.seq = .idle → P s → P (sseInit s)
  setIe : ∀ s b, s.seq = .idle → P s → P { s with ie := b }

section
variable {P : State → Prop} (hP : KeptByAgents P)
include hP

/-- The environment's moves before an event keep what its single moves keep. -/
theorem KeptByAgents.envDrainList (ms : List EnvMove) (s : State) (h : P s) : P (envDrainList ms s) := by
  induction ms generalizing s with
  | nil => exact hP.inputs s _ _ _ _ h
  | cons m ms ih =>
    cases m with
    | isr n =>
      rw [Machine.envDrainList]
      split
      · next hi => exact ih _ (hP.isr s n hi h)
      · exact hP.inputs s _ _ _ _ h
    | pending n => exact ih _ (hP.inputs s _ _ _ _ h)
    | pass => exact hP.inputs s _ _ _ _ h

/-- The events of a command keep what a single transition keeps. -/
theorem KeptByAgents.framerRun (k : Nat) (s : State) (h : P s) : P (framerRun k s) := by
  induction k generalizing s with
  | zero => exact h
  | succ k ih =>
    have hd : P (envDrain s) := hP.envDrainList s.envIn s h
    refine ih _ ?_
    by_cases hq : (envDrain s).seq = .idle
    · rwa [framerAct_idle hq]
    · exact hP.act _ hq hd

/-- A called command keeps what its `Accept` and its transitions keep. -/
theorem KeptByAgents.exec {i : Instr} {s t : State} (ht : exec i s = .next t) (h : P s) : P t := by
  obtain ⟨hcall, rfl⟩ := exec_next ht
  exact hP.framerRun _ _ (hP.accept s i hcall h)

/-- Every step of the system keeps what each agent keeps. -/
theorem KeptByAgents.step {s t : State} (ht : step s = .next t) (h : P s) : P t := by
  have hpass : P (envPass s) := by
    rw [envPass_eq]
    exact hP.inputs s _ _ _ _ h
  have hseq : (envPass s).seq = s.seq := by rw [envPass_eq]
  rcases step_next ht with henv | ⟨hq, -, -, rfl⟩ | ⟨hq, -, hhost⟩
  · rcases envMove_cases henv with ⟨n, ms, -, hi, rfl⟩ | ⟨n, ms, -, rfl⟩
    · exact hP.isr _ n hi (hP.inputs s _ _ _ _ h)
    · exact hP.inputs s _ _ _ _ h
  · exact hP.act _ (hseq ▸ hq) hpass
  · rw [← hseq] at hq
    have hin (rest : List HostStep) : P { envPass s with hostIn := rest } := hP.inputs _ _ _ _ _ hpass
    rcases hostStep_next hhost with ⟨-, rfl⟩ | ⟨i, e, rest, -, -, hexec⟩ | ⟨i, rest, -, hr, rfl⟩ | ⟨rest, -, rfl⟩ |
      ⟨rest, -, rfl⟩ | ⟨b, rest, -, rfl⟩ | ⟨rest, -, rfl⟩
    · exact hpass
    · exact hP.exec hexec (hin rest)
    · exact hP.accept _ i ⟨hr, hq⟩ (hin rest)
    · exact hP.init _ hq (hin rest)
    · exact hP.inputs _ _ _ _ _ hpass
    · exact hP.inputs _ _ _ _ _ (hP.setIe _ b hq hpass)
    · exact hin rest

end

/-! ### The flag table -/

/-- A transition from flags as the table has them leaves flags as the table has them (R112). -/
theorem framerAct_flagsAgree {s : State} (h : FlagsAgree s) : FlagsAgree (framerAct s) := by
  obtain ⟨hoe, hie⟩ := h
  rw [framerAct_eq]
  cases hq : s.seq <;> simp_all [FlagsAgree, rowState, nextSeq, expectedOe, expectedIe, shifted]

/-- Every agent keeps the flag table (R112). -/
theorem flagsAgree_kept : KeptByAgents FlagsAgree where
  inputs _ _ _ _ _ h := h
  isr _ _ _ h := h
  act _ _ h := framerAct_flagsAgree h
  accept s i hcall h := by
    obtain ⟨hoe, -⟩ := h
    rw [hcall.2] at hoe
    cases i <;> exact ⟨hoe, .inl rfl⟩
  init s hq h := by simp [FlagsAgree, hq, expectedOe, expectedIe]
  setIe s b hq h := by
    obtain ⟨hoe, -⟩ := h
    exact ⟨hoe, .inl (by simp [hq, expectedIe])⟩

/-- Settles O37: every agent keeps the table. -/
theorem flagTableIsKept : Obligations.FlagTableIsKept := by
  unfold Obligations.FlagTableIsKept
  exact fun s t h ht => flagsAgree_kept.step ht h

/-! ### The laws of the trace -/

/-- The event of a transition from flags as the table has them is lawful with the flags it leaves (R97, R112). -/
theorem rowEvents_lawful {s : State} (h : FlagsAgree s) :
    ∀ e ∈ rowEvents s, entryLawful ⟨e, (rowState s).oe, (rowState s).ie⟩ = true := by
  obtain ⟨hoe, hie⟩ := h
  intro e he
  cases hq : s.seq <;> simp_all [rowEvents, rowState, slotByte, expectedOe, expectedIe, entryLawful, shifted]

/-- Every agent keeps the trace lawful where the flags agree with the table (R97, R124). -/
theorem traceLawful_kept : KeptByAgents fun s => FlagsAgree s ∧ TraceLawful s where
  inputs _ _ _ _ _ h := h
  isr s n hi h := by
    obtain ⟨hf, hl⟩ := h
    exact ⟨flagsAgree_kept.isr s n hi hf, by simpa [TraceLawful, entryLawful, hi] using hl⟩
  act s hq h := by
    obtain ⟨hf, hl⟩ := h
    refine ⟨framerAct_flagsAgree hf, ?_⟩
    have hrow := rowEvents_lawful hf
    rw [TraceLawful, framerAct_eq, List.all_append, hl, Bool.true_and, List.all_map, List.all_eq_true]
    exact hrow
  accept s i hcall h := by
    obtain ⟨hf, hl⟩ := h
    refine ⟨flagsAgree_kept.accept s i hcall hf, ?_⟩
    have hoe : s.oe = false := by rw [hf.1, hcall.2]; rfl
    cases i <;> simpa [accept, TraceLawful, entryLawful, emit, hoe] using hl
  init s hq h := ⟨flagsAgree_kept.init s hq h.1, rfl⟩
  setIe s b hq h := ⟨flagsAgree_kept.setIe s b hq h.1, h.2⟩

/-- Settles O38: every agent keeps the flag table and, with it, the laws of the trace. -/
theorem traceStaysLawful : Obligations.TraceStaysLawful := by
  unfold Obligations.TraceStaysLawful
  exact fun s t hf hl ht => traceLawful_kept.step ht ⟨hf, hl⟩

/-! ### Path, kind and header -/

/-- A transition leaves the engine's configuration and the host's side (R76, R100). -/
theorem framerAct_frame (s : State) :
    (framerAct s).sse = s.sse ∧ (framerAct s).hostIn = s.hostIn ∧ (framerAct s).hostGot = s.hostGot ∧
      (framerAct s).envIn = s.envIn ∧ (framerAct s).irqPending = s.irqPending := by
  rw [framerAct_eq]
  cases hq : s.seq <;> simp [rowState, shifted, hq]

/-- A transition stays on its path or ends it (R104, R105). -/
theorem pathKind_nextSeq (q : Seq) : nextSeq q = .idle ∨ pathKind (nextSeq q) = pathKind q := by
  cases q <;> decide

/-- Every agent keeps path, kind, header pattern and configured engine in agreement (R61, R102). -/
theorem commandAgrees_kept : KeptByAgents CommandAgrees where
  inputs _ _ _ _ _ h := h
  isr _ _ _ h := h
  act s hq h := by
    obtain ⟨hr, hpath, hpat⟩ := h.resolve_left hq
    obtain ⟨hk, h1, h2, -⟩ := framerAct_latches s
    obtain ⟨hsse, -⟩ := framerAct_frame s
    rw [CommandAgrees, framerAct_seq, hk, h1, h2, hsse]
    exact (pathKind_nextSeq s.seq).imp_right fun hn => ⟨hr, hn.trans hpath, hpat⟩
  accept s i hcall _ := by
    cases i with
    | write p r d => exact .inr ⟨hcall.1, rfl, headerBytes_match .write p r⟩
    | read p r => exact .inr ⟨hcall.1, rfl, headerBytes_match .read p r⟩
  init _ hq _ := .inl hq
  setIe _ _ hq _ := .inl hq

/-- Settles O39: every agent keeps the agreement. -/
theorem commandAgreementIsKept : Obligations.CommandAgreementIsKept := by
  unfold Obligations.CommandAgreementIsKept
  exact fun s t h ht => commandAgrees_kept.step ht h

/-- Settles O40: the three invariants evaluated in the state after reset. -/
theorem resetMeetsTheInvariants : Obligations.ResetMeetsTheInvariants := by
  unfold Obligations.ResetMeetsTheInvariants
  exact ⟨⟨rfl, .inl rfl⟩, rfl, .inl rfl⟩

end Sys2Proof.Machine
end

section
/-! PROOFS. The whole run of a called command: its environment set apart, its events in order (R86, R92, R125). -/

namespace Sys2Proof.Machine

open Sys2Proof

/-! ### Handler runs and the rest of the environment -/

/-- The environment's script and `irq_pending` become as given. -/
def setEnv (env : List EnvMove) (pending : Nat) (s : State) : State := { s with envIn := env, irqPending := pending }

/-- `n` handler runs are recorded with the flags as they are. -/
def recordIsrs (n : Nat) (s : State) : State := { s with trace := s.trace ++ isrRuns n s.oe s.ie }

/-- Before an event some handlers run, none with `ie = 0`, and the environment's part changes (R107, R124). -/
theorem envDrain_eq (s : State) :
    ∃ env pending n, envDrain s = setEnv env pending (recordIsrs n s) ∧ (s.ie = false → n = 0) :=
  envDrain_spec s

/-- With `ie = 0` only the environment's part changes before an event (R124). -/
theorem envDrain_masked {s : State} (h : s.ie = false) : ∃ env pending, envDrain s = setEnv env pending s := by
  obtain ⟨env, pending, n, he, hn⟩ := envDrain_eq s
  refine ⟨env, pending, ?_⟩
  rw [he, hn h, recordIsrs, isrRuns, List.replicate_zero, List.append_nil]

/-- A transition neither reads nor writes the environment's part. -/
theorem framerAct_setEnv (env : List EnvMove) (pending : Nat) (s : State) :
    framerAct (setEnv env pending s) = setEnv env pending (framerAct s) := by
  rw [framerAct_eq, framerAct_eq]
  rcases s with ⟨⟩
  next q _ _ _ _ _ _ _ _ _ _ _ _ => cases q <;> rfl

/-- Only the last setting of the environment's part counts. -/
theorem setEnv_setEnv (env env' : List EnvMove) (pending pending' : Nat) (s : State) :
    setEnv env pending (setEnv env' pending' s) = setEnv env pending s := rfl

/-- The transitions from `q` on that write `ie` are those of `W_DI`, `W_EI`, `R_DI` and `R_EI` (R18). -/
def writesIe (q : Seq) : Bool := q ∈ [Seq.wDI, .wEI, .rDI, .rEI]

/-- A transition that is no write of `ie` leaves it (R18). -/
theorem framerAct_ie {s : State} (h : writesIe s.seq = false) : (framerAct s).ie = s.ie := by
  rw [framerAct_eq]
  cases hq : s.seq <;> simp_all [rowState, shifted, writesIe]

/-- With `ie = 0` an event of a command is its transition alone, the environment's part set apart (R124). -/
theorem framerAct_envDrain_masked {s : State} (env : List EnvMove) (pending : Nat) (h : s.ie = false) :
    ∃ env' pending', framerAct (envDrain (setEnv env pending s)) = setEnv env' pending' (framerAct s) := by
  obtain ⟨env', pending', he⟩ := envDrain_masked (s := setEnv env pending s) h
  exact ⟨env', pending', by rw [he, setEnv_setEnv, framerAct_setEnv]⟩

/-- While `ie = 0` lasts, a run of the framer is its transitions alone, the environment's part set apart; the last
of them may write `ie` (R97, R124). -/
theorem framerRun_masked (k : Nat) {s : State} (env : List EnvMove) (pending : Nat) (hi : s.ie = false)
    (hk : ∀ j < k, writesIe (nextSeq^[j] s.seq) = false) :
    ∃ env' pending', framerRun (k + 1) (setEnv env pending s) = setEnv env' pending' (framerAct^[k + 1] s) := by
  induction k generalizing s env pending with
  | zero => exact framerAct_envDrain_masked env pending hi
  | succ k ih =>
    obtain ⟨env₁, pending₁, hact⟩ := framerAct_envDrain_masked env pending hi
    have hk' : ∀ j < k, writesIe (nextSeq^[j] (framerAct s).seq) = false := fun j hj => by
      rw [framerAct_seq]
      exact hk (j + 1) (Nat.succ_lt_succ hj)
    obtain ⟨env₂, pending₂, hrun⟩ := ih env₁ pending₁ ((framerAct_ie (hk 0 k.succ_pos)).trans hi) hk'
    exact ⟨env₂, pending₂, by rw [framerRun, hact, hrun]; rfl⟩

/-- The first event of a run: handler runs where `ie = 1` lets them, then the transition (R107, R124). -/
theorem framerRun_succ (k : Nat) (env : List EnvMove) (pending : Nat) (s : State) :
    ∃ env' pending' n,
      framerRun (k + 1) (setEnv env pending s) = framerRun k (setEnv env' pending' (framerAct (recordIsrs n s))) ∧
        (s.ie = false → n = 0) := by
  obtain ⟨env', pending', n, he, hn⟩ := envDrain_eq (setEnv env pending s)
  have hact : framerAct (envDrain (setEnv env pending s)) = setEnv env' pending' (framerAct (recordIsrs n s)) := by
    have hrecord : recordIsrs n (setEnv env pending s) = setEnv env pending (recordIsrs n s) := rfl
    rw [he, hrecord, setEnv_setEnv, framerAct_setEnv]
  exact ⟨env', pending', n, by rw [framerRun, hact], hn⟩

/-- A run of the framer is a run of its first events and a run of the rest. -/
theorem framerRun_add (j k : Nat) (s : State) : framerRun (j + k) s = framerRun k (framerRun j s) := by
  induction j generalizing s with
  | zero => rw [Nat.zero_add]; rfl
  | succ j ih => rw [Nat.succ_add]; exact ih _

/-! ### Consecutive bytes -/

/-- TRANSCEIVE of each byte in order. -/
def xfers (txs : List Byte) (s : State) : State := txs.foldl (fun s tx => transceive tx s) s

/-- The `Xfer` entries of bytes sent in order, the answers counted from number `first` of `s` on (R37). -/
def xferEntries (s : State) (oe ie : Bool) (first : Nat) (txs : List Byte) : List Entry :=
  txs.mapIdx fun k tx => ⟨.xfer tx (rxAt s (first + k)), oe, ie⟩

/-- The entry of the first byte, then those of the rest. -/
theorem xferEntries_cons (s : State) (oe ie : Bool) (first : Nat) (tx : Byte) (txs : List Byte) :
    xferEntries s oe ie first (tx :: txs) =
      ⟨.xfer tx (rxAt s first), oe, ie⟩ :: xferEntries s oe ie (first + 1) txs := by
  simp [xferEntries, List.mapIdx_cons, Nat.add_assoc, Nat.add_comm 1]

/-- The entries of sent bytes depend on the state by the answers alone. -/
theorem xferEntries_congr {s t : State} {oe ie : Bool} {first : Nat} {txs : List Byte}
    (h : ∀ k, rxAt t k = rxAt s (first + k)) : xferEntries t oe ie 0 txs = xferEntries s oe ie first txs := by
  simp [xferEntries, h]

/-- Bytes sent in order use up one answer each, are recorded with the flags as they are, and touch the engine's register
and completion flag alone besides (R70, R72). -/
theorem xfers_eq (txs : List Byte) (s : State) :
    ∃ sr sdone, xfers txs s =
      { s with
        sr := sr
        sdone := sdone
        phyIn := s.phyIn.drop txs.length
        draws := s.draws + (txs.length - s.phyIn.length)
        trace := s.trace ++ xferEntries s s.oe s.ie 0 txs } := by
  induction txs generalizing s with
  | nil => exact ⟨s.sr, s.sdone, by simp [xfers, xferEntries]⟩
  | cons tx txs ih =>
    obtain ⟨sr, sdone, he⟩ := ih (transceive tx s)
    have hentries : xferEntries (transceive tx s) s.oe s.ie 0 txs = xferEntries s s.oe s.ie 1 txs :=
      xferEntries_congr fun k => by rw [rxAt_transceive, Nat.add_comm]
    refine ⟨sr, sdone, he.trans ?_⟩
    rw [transceive_oe, transceive_ie, hentries, xferEntries_cons]
    have hdraws : s.draws + (1 - s.phyIn.length) + (txs.length - (s.phyIn.length - 1)) =
        s.draws + (txs.length + 1 - s.phyIn.length) := by omega
    simp [transceive_eq_shifted, shifted, hdraws]

/-- After sent bytes the stream of answers goes on behind theirs (R72). -/
theorem rxAt_xfers (txs : List Byte) (s : State) (k : Nat) : rxAt (xfers txs s) k = rxAt s (txs.length + k) := by
  induction txs generalizing s with
  | nil => rw [List.length_nil, Nat.zero_add]; rfl
  | cons tx txs ih =>
    rw [List.length_cons, Nat.succ_add, ← rxAt_transceive tx]
    exact ih _

/-- The entries of sent bytes send those bytes. -/
@[simp] theorem sentBytes_xferEntries (s : State) (oe ie : Bool) (first : Nat) (txs : List Byte) :
    sentBytes (xferEntries s oe ie first txs) = txs := by
  induction txs generalizing first with
  | nil => rfl
  | cons tx txs ih =>
    rw [xferEntries_cons]
    exact congrArg (tx :: ·) (ih (first + 1))

/-! ### The sequencer's position beside the other operations -/

@[simp] theorem goto_goto (q q' : Seq) (s : State) : goto q (goto q' s) = goto q s := rfl
@[simp] theorem irqOn_goto (q : Seq) (s : State) : irqOn (goto q s) = goto q (irqOn s) := rfl
@[simp] theorem irqOff_goto (q : Seq) (s : State) : irqOff (goto q s) = goto q (irqOff s) := rfl
@[simp] theorem oeOff_goto (q : Seq) (s : State) : oeOff (goto q s) = goto q (oeOff s) := rfl
@[simp] theorem recordIsrs_goto (n : Nat) (q : Seq) (s : State) :
    recordIsrs n (goto q s) = goto q (recordIsrs n s) := rfl
@[simp] theorem transceive_goto (tx : Byte) (q : Seq) (s : State) :
    transceive tx (goto q s) = goto q (transceive tx s) := by rw [transceive_eq, transceive_eq]; rfl

@[simp] theorem receiveHigh_goto (q : Seq) (s : State) : receiveHigh (goto q s) = goto q (receiveHigh s) := by
  simp only [receiveHigh, transceive_goto]; rfl

/-- The two bytes a read receives are kept (R14). -/
def keepReceived (high low : Byte) (s : State) : State := { s with rxh := high, rxl := low }

@[simp] theorem keepReceived_goto (high low : Byte) (q : Seq) (s : State) :
    keepReceived high low (goto q s) = goto q (keepReceived high low s) := rfl

/-- A read's last two `Xfer` events are two exchanges of the dummy byte with the answers kept (R14, R105). -/
theorem receiveLow_receiveHigh (q : Seq) (s : State) :
    receiveLow (goto q (receiveHigh s)) =
      goto q (keepReceived (rxAt s 0) (rxAt s 1) (xfers [dummyByte, dummyByte] s)) := by
  simp [receiveLow, receiveHigh, keepReceived, xfers, transceive_eq_shifted, shifted, goto, rxAt, -List.drop_one]

/-! ### The path of a WRITE -/

/-- The bytes a `WRITE` sends, from the latches (R51). -/
def writeBytes (s : State) : List Byte :=
  [preambleByte, preambleByte, preambleByte, preambleByte, s.h1, s.h2, dataHigh s.wd, dataLow s.wd]

/-- The masked transitions of a `WRITE` (R86, R104). -/
theorem writePath_masked {s : State} (hq : s.seq = .wOE) :
    framerAct^[11] s = goto .idle (irqOn (oeOff (xfers (writeBytes s) (oeOn s)))) := by
  simp [Function.iterate_succ_apply, framerAct, hq, xfers, writeBytes]

/-- The twelve entries of a `WRITE` (R86). -/
def writeEntries (s : State) : List Entry :=
  [⟨.irqOff, s.oe, false⟩, ⟨.oeOn, true, false⟩] ++ xferEntries s true false 0 (writeBytes s) ++
    [⟨.oeOff, false, false⟩, ⟨.irqOn, false, true⟩]

/-- The run of a `WRITE` after its `Accept`: handler runs, then its twelve events, and the state they leave (R86). -/
theorem framerRun_write {s : State} (hq : s.seq = .wDI) :
    ∃ env pending sr sdone n, (s.ie = false → n = 0) ∧ framerRun 12 s =
      { s with
        seq := .idle
        oe := false
        ie := true
        sr := sr
        sdone := sdone
        phyIn := s.phyIn.drop 8
        draws := s.draws + (8 - s.phyIn.length)
        envIn := env
        irqPending := pending
        trace := s.trace ++ isrRuns n s.oe s.ie ++ writeEntries s } := by
  obtain ⟨env, pending, n, hrun, hn⟩ := framerRun_succ 11 s.envIn s.irqPending s
  have hact : framerAct (recordIsrs n s) = goto .wOE (irqOff (recordIsrs n s)) := by simp [framerAct, recordIsrs, hq]
  obtain ⟨env', pending', hmasked⟩ := framerRun_masked 10 (s := goto .wOE (irqOff (recordIsrs n s))) env pending rfl
    (show ∀ j < 10, writesIe (nextSeq^[j] .wOE) = false by decide)
  obtain ⟨sr, sdone, hx⟩ := xfers_eq (writeBytes s) (oeOn (goto .wOE (irqOff (recordIsrs n s))))
  refine ⟨env', pending', sr, sdone, n, hn, ?_⟩
  refine hrun.trans ?_
  rw [hact, hmasked, writePath_masked rfl]
  refine (congrArg (fun t => setEnv env' pending' (goto .idle (irqOn (oeOff t)))) hx).trans ?_
  simp [setEnv, goto, irqOn, irqOff, oeOn, oeOff, emit, recordIsrs, writeEntries, writeBytes, xferEntries, rxAt]

/-! ### The path of a READ -/

/-- The bytes a `READ` drives, from the latches (R51). -/
def readBytes (s : State) : List Byte := [preambleByte, preambleByte, preambleByte, preambleByte, s.h1, s.h2]

/-- The masked transitions of a `READ` (R92, R105). -/
theorem readPath_masked {s : State} (hq : s.seq = .rP0) :
    framerAct^[10] s = goto .rRES (irqOn (keepReceived (rxAt s 6) (rxAt s 7)
      (xfers [dummyByte, dummyByte] (oeOff (xfers (readBytes s) s))))) := by
  have hrx (k : Nat) : rxAt (oeOff (xfers (readBytes s) s)) k = rxAt s (6 + k) := rxAt_xfers _ _ k
  rw [← hrx 0, ← hrx 1]
  simp [Function.iterate_succ_apply, framerAct, hq, receiveLow_receiveHigh, xfers, readBytes]

/-- What the masked `Xfer` events of a `READ` and its `OeOff` leave: eight answers used up, the last two kept (R92). -/
theorem readShifts_eq (s : State) :
    ∃ sr sdone, keepReceived (rxAt s 6) (rxAt s 7) (xfers [dummyByte, dummyByte] (oeOff (xfers (readBytes s) s))) =
      { s with
        oe := false
        rxh := rxAt s 6
        rxl := rxAt s 7
        sr := sr
        sdone := sdone
        phyIn := s.phyIn.drop 8
        draws := s.draws + (8 - s.phyIn.length)
        trace := s.trace ++ xferEntries s s.oe s.ie 0 (readBytes s) ++ [⟨.oeOff, false, s.ie⟩] ++
          xferEntries s false s.ie 6 [dummyByte, dummyByte] } := by
  obtain ⟨_, _, hx⟩ := xfers_eq (readBytes s) s
  obtain ⟨sr, sdone, hx'⟩ := xfers_eq [dummyByte, dummyByte] (oeOff (xfers (readBytes s) s))
  have hentries (oe ie : Bool) : xferEntries (oeOff (xfers (readBytes s) s)) oe ie 0 [dummyByte, dummyByte] =
      xferEntries s oe ie 6 [dummyByte, dummyByte] := xferEntries_congr fun k => rxAt_xfers _ _ k
  have hdraws : s.draws + (6 - s.phyIn.length) + (2 - (s.phyIn.length - 6)) = s.draws + (8 - s.phyIn.length) := by omega
  refine ⟨sr, sdone, ?_⟩
  rw [hx', hentries, hx]
  simp [keepReceived, oeOff, emit, readBytes, hdraws]

/-- The masked part of a `READ`, its environment set apart (R92). -/
theorem framerRun_readMasked {s : State} (env : List EnvMove) (pending : Nat) (hq : s.seq = .rP0) (hi : s.ie = false) :
    ∃ env' pending' sr sdone, framerRun 10 (setEnv env pending s) = setEnv env' pending'
      { s with
        seq := .rRES
        oe := false
        ie := true
        rxh := rxAt s 6
        rxl := rxAt s 7
        sr := sr
        sdone := sdone
        phyIn := s.phyIn.drop 8
        draws := s.draws + (8 - s.phyIn.length)
        trace := s.trace ++ xferEntries s s.oe false 0 (readBytes s) ++ [⟨.oeOff, false, false⟩] ++
          xferEntries s false false 6 [dummyByte, dummyByte] ++ [⟨.irqOn, false, true⟩] } := by
  have hmask : ∀ j < 9, writesIe (nextSeq^[j] s.seq) = false := by rw [hq]; decide
  obtain ⟨env', pending', hrun⟩ := framerRun_masked 9 env pending hi hmask
  obtain ⟨sr, sdone, hshifts⟩ := readShifts_eq s
  refine ⟨env', pending', sr, sdone, ?_⟩
  rw [hrun, readPath_masked hq, hshifts, hi]
  rfl

/-- The entries of a `READ` with `n`, `m` and `k` handler runs before `OeOn`, `IrqOff` and `Deliver` (R92, R125). -/
def readEntries (s : State) (n m k : Nat) : List Entry :=
  isrRuns n s.oe s.ie ++ [⟨.oeOn, true, s.ie⟩] ++ isrRuns m true s.ie ++ [⟨.irqOff, true, false⟩] ++
    xferEntries s true false 0 (readBytes s) ++ [⟨.oeOff, false, false⟩] ++
    xferEntries s false false 6 [dummyByte, dummyByte] ++ [⟨.irqOn, false, true⟩] ++ isrRuns k false true ++
    [⟨.deliver (rxAt s 6 ++ rxAt s 7), false, true⟩]

/-- The run of a `READ` after its `Accept`: its thirteen events with handler runs only where `ie = 1`, and the state
they leave (R92). -/
theorem framerRun_read {s : State} (hq : s.seq = .rOE) :
    ∃ env pending sr sdone n m k, (s.ie = false → n = 0 ∧ m = 0) ∧ framerRun 13 s =
      { s with
        seq := .idle
        oe := false
        ie := true
        rxh := rxAt s 6
        rxl := rxAt s 7
        rdata := rxAt s 6 ++ rxAt s 7
        sr := sr
        sdone := sdone
        phyIn := s.phyIn.drop 8
        draws := s.draws + (8 - s.phyIn.length)
        envIn := env
        irqPending := pending
        trace := s.trace ++ readEntries s n m k } := by
  obtain ⟨env₁, pending₁, n, hrun₁, hn⟩ := framerRun_succ 12 s.envIn s.irqPending s
  have hact₁ : framerAct (recordIsrs n s) = goto .rDI (oeOn (recordIsrs n s)) := by simp [framerAct, recordIsrs, hq]
  obtain ⟨env₂, pending₂, m, hrun₂, hm⟩ := framerRun_succ 11 env₁ pending₁ (goto .rDI (oeOn (recordIsrs n s)))
  have hact₂ : framerAct (recordIsrs m (goto .rDI (oeOn (recordIsrs n s)))) =
      goto .rP0 (irqOff (recordIsrs m (oeOn (recordIsrs n s)))) := by simp [framerAct]
  obtain ⟨env₃, pending₃, sr, sdone, hmasked⟩ := framerRun_readMasked
    (s := goto .rP0 (irqOff (recordIsrs m (oeOn (recordIsrs n s))))) env₂ pending₂ rfl rfl
  obtain ⟨env₄, pending₄, k, hrun₃, -⟩ := framerRun_succ 0 env₃ pending₃ _
  refine ⟨env₄, pending₄, sr, sdone, n, m, k, fun hi => ⟨hn hi, hm hi⟩, ?_⟩
  refine hrun₁.trans ?_
  rw [hact₁, hrun₂, hact₂, framerRun_add 10 1, hmasked]
  refine hrun₃.trans ?_
  simp [setEnv, goto, irqOff, oeOn, emit, recordIsrs, readEntries, readBytes, xferEntries, rxAt, framerRun, framerAct,
    deliver, composeResult_eq_append]

end Sys2Proof.Machine
end

section
/-! PROOFS. The statements about a called WRITE and a called READ, each read off the state its run leaves (R51, R57,
R58, R86, R88, R92, R93). -/

namespace Sys2Proof.Machine

open Sys2Proof

/-! ### The environment's part of a call -/

/-- From `s` to `t` the environment's script has only been used up, and with an empty one `irq_pending` has stayed. -/
def UsesUpEnv (s t : State) : Prop :=
  t.envIn <:+ s.envIn ∧ (s.envIn = [] → t.irqPending = s.irqPending)

/-- What uses up the environment's script in two parts uses it up. -/
theorem UsesUpEnv.trans {s t u : State} (h : UsesUpEnv s t) (h' : UsesUpEnv t u) : UsesUpEnv s u := by
  obtain ⟨henv, hp⟩ := h
  obtain ⟨henv', hp'⟩ := h'
  refine ⟨henv'.trans henv, fun he => ?_⟩
  rw [hp' (List.suffix_nil.mp (he ▸ henv)), hp he]

/-- The enabled moves of a script use it up (R107). -/
theorem envDrainList_usesUp (ms : List EnvMove) (s : State) :
    (envDrainList ms s).envIn <:+ ms ∧ (ms = [] → (envDrainList ms s).irqPending = s.irqPending) := by
  induction ms generalizing s with
  | nil => exact ⟨List.suffix_rfl, fun _ => rfl⟩
  | cons m ms ih =>
    refine ⟨?_, nofun⟩
    cases m with
    | isr n =>
      rw [envDrainList]
      split
      · exact (ih _).1.trans (List.suffix_cons _ _)
      · exact List.suffix_rfl
    | pending n => exact (ih _).1.trans (List.suffix_cons _ _)
    | pass => exact List.suffix_cons _ _

/-- The events of a command use up the environment's script (R107). -/
theorem framerRun_usesUp (k : Nat) (s : State) : UsesUpEnv s (framerRun k s) := by
  induction k generalizing s with
  | zero => exact ⟨List.suffix_rfl, fun _ => rfl⟩
  | succ k ih =>
    have hact : UsesUpEnv s (framerAct (envDrain s)) := by
      obtain ⟨-, -, -, henv, hp⟩ := framerAct_frame (envDrain s)
      rw [UsesUpEnv, henv, hp]
      exact envDrainList_usesUp s.envIn s
    exact hact.trans (ih _)

/-- A called command uses up the environment's script (R107). -/
theorem exec_usesUp {i : Instr} {s t : State} (h : exec i s = .next t) : UsesUpEnv s t := by
  obtain ⟨-, rfl⟩ := exec_next h
  have haccept : UsesUpEnv s (accept i s) := by cases i <;> exact ⟨List.suffix_rfl, fun _ => rfl⟩
  exact haccept.trans (framerRun_usesUp _ _)

/-! ### The entries of a call -/

/-- The entries beyond a trace that has grown are what was appended. -/
theorem newEntries_eq {s t : State} {es : List Entry} (h : t.trace = s.trace ++ es) : newEntries s t = es := by
  rw [newEntries, h, List.drop_left]

/-- Handler runs send nothing. -/
@[simp] theorem sentBytes_isrRuns (n : Nat) (oe ie : Bool) : sentBytes (isrRuns n oe ie) = [] := by
  simp [sentBytes, isrRuns, sentByte]

/-- What two parts of a trace send is sent in their order. -/
@[simp] theorem sentBytes_append (es fs : List Entry) : sentBytes (es ++ fs) = sentBytes es ++ sentBytes fs :=
  List.filterMap_append

/-- Handler runs put nothing on the line. -/
@[simp] theorem lineCells_isrRuns (n : Nat) (oe ie : Bool) : lineCells (isrRuns n oe ie) = [] := by
  simp [lineCells, isrRuns, entryCells]

/-- What two parts of a trace put on the line stands there in their order. -/
@[simp] theorem lineCells_append (es fs : List Entry) : lineCells (es ++ fs) = lineCells es ++ lineCells fs :=
  List.flatMap_append

/-- The bit-cells of an `Xfer` are the bits of its byte, each on the line while `oe = 1` (R33, R74). -/
theorem entryCells_xfer (tx rx : Byte) (oe ie : Bool) :
    entryCells ⟨.xfer tx rx, oe, ie⟩ = (lineBits tx).map fun b => if oe then some b else none := by
  rw [entryCells, shiftCells_lineBits]

/-- Bytes sent with `oe = 1` stand on the line bit for bit (R50, R74). -/
@[simp] theorem lineCells_xferEntries (s : State) (oe ie : Bool) (first : Nat) (txs : List Byte) :
    lineCells (xferEntries s oe ie first txs) = (txs.flatMap lineBits).map fun b => if oe then some b else none := by
  induction txs generalizing first with
  | nil => rfl
  | cons tx txs ih =>
    rw [xferEntries_cons, List.flatMap_cons, List.map_append, ← ih (first + 1),
      ← entryCells_xfer tx (rxAt s first) oe ie]
    rfl

/-! ### WRITE -/

/-- The state a called `WRITE` ends in, given what its environment does (R86). -/
theorem exec_write (p r : AddrOperand) (d : Word16) {s : State} (h : CanCall s) :
    ∃ env pending sr sdone n, (s.ie = false → n = 0) ∧ exec (.write p r d) s = .next
      { accept (.write p r d) s with
        seq := .idle
        oe := false
        ie := true
        sr := sr
        sdone := sdone
        phyIn := s.phyIn.drop 8
        draws := s.draws + (8 - s.phyIn.length)
        envIn := env
        irqPending := pending
        trace := s.trace ++ [⟨.accept (.write p r d), s.oe, s.ie⟩] ++ isrRuns n s.oe s.ie ++
          writeEntries (accept (.write p r d) s) } := by
  obtain ⟨env, pending, sr, sdone, n, hn, hrun⟩ := framerRun_write (s := accept (.write p r d) s) rfl
  exact ⟨env, pending, sr, sdone, n, hn, (exec_ready _ h).trans (congrArg _ hrun)⟩

/-- The entries a called `WRITE` adds (R86). -/
theorem exec_write_newEntries (p r : AddrOperand) (d : Word16) {s : State} (h : CanCall s) :
    ∃ t n, exec (.write p r d) s = .next t ∧ t.oe = false ∧
      newEntries s t = [⟨.accept (.write p r d), s.oe, s.ie⟩] ++ isrRuns n s.oe s.ie ++
        writeEntries (accept (.write p r d) s) := by
  obtain ⟨_, _, _, _, n, -, ht⟩ := exec_write p r d h
  exact ⟨_, n, ht, rfl, newEntries_eq (by simp only [List.append_assoc])⟩

/-- Settles O8: the run of a `WRITE`, its entries written out. -/
theorem writeEmitsItsTrace : Obligations.WriteEmitsItsTrace := by
  unfold Obligations.WriteEmitsItsTrace
  intro p r d s hcall
  obtain ⟨_, _, _, _, n, hn, ht⟩ := exec_write p r d hcall
  exact ⟨_, n, ht, hn, rfl, rfl, rfl, rfl, rfl, rfl, rfl, rfl, rfl, rfl, rfl⟩

/-- Settles O9: the run of a `WRITE` writes none of these fields, and the environment's script is used up. -/
theorem writeLeavesTheRest : Obligations.WriteLeavesTheRest := by
  unfold Obligations.WriteLeavesTheRest
  intro p r d s t h
  obtain ⟨henv, hp⟩ := exec_usesUp h
  obtain ⟨_, _, _, _, n, -, ht⟩ := exec_write p r d (exec_next h).1
  cases h.symm.trans ht
  exact ⟨rfl, rfl, rfl, rfl, rfl, rfl, by simp [List.append_assoc], henv, rfl, rfl, hp⟩

/-- Settles O11: the entries between `OeOn` and `OeOff` are the eight `Xfer` events. -/
theorem writeDrivesAllEightBytes : Obligations.WriteDrivesAllEightBytes := by
  unfold Obligations.WriteDrivesAllEightBytes
  intro p r d s hcall
  obtain ⟨t, n, ht, hoe, hnew⟩ := exec_write_newEntries p r d hcall
  refine ⟨t, [⟨.accept (.write p r d), s.oe, s.ie⟩] ++ isrRuns n s.oe s.ie ++ [⟨.irqOff, s.oe, false⟩],
    xferEntries (accept (.write p r d) s) true false 0 (writeBytes (accept (.write p r d) s)), ht, ?_, ?_, rfl, ?_,
    (sentBytes_xferEntries _ _ _ _ _).trans (encode_eq (.write p r d)).symm, hoe⟩
  · rw [hnew, writeEntries]
    simp [accept]
  · rw [sentBytes_append, sentBytes_append, sentBytes_isrRuns]
    rfl
  · simp [xferEntries, writeBytes, sentByte]

/-! ### READ -/

/-- The state a called `READ` ends in, given what its environment does (R92). -/
theorem exec_read (p r : AddrOperand) {s : State} (h : CanCall s) :
    ∃ env pending sr sdone n m k, (s.ie = false → n = 0 ∧ m = 0) ∧ exec (.read p r) s = .next
      { accept (.read p r) s with
        seq := .idle
        oe := false
        ie := true
        rxh := rxAt s 6
        rxl := rxAt s 7
        rdata := rxAt s 6 ++ rxAt s 7
        sr := sr
        sdone := sdone
        phyIn := s.phyIn.drop 8
        draws := s.draws + (8 - s.phyIn.length)
        envIn := env
        irqPending := pending
        trace := s.trace ++ [⟨.accept (.read p r), s.oe, s.ie⟩] ++ readEntries (accept (.read p r) s) n m k } := by
  obtain ⟨env, pending, sr, sdone, n, m, k, hn, hrun⟩ := framerRun_read (s := accept (.read p r) s) rfl
  exact ⟨env, pending, sr, sdone, n, m, k, hn, (exec_ready _ h).trans (congrArg _ hrun)⟩

/-- The entries a called `READ` adds (R92). -/
theorem exec_read_newEntries (p r : AddrOperand) {s : State} (h : CanCall s) :
    ∃ t n m k, exec (.read p r) s = .next t ∧
      newEntries s t = [⟨.accept (.read p r), s.oe, s.ie⟩] ++ readEntries (accept (.read p r) s) n m k := by
  obtain ⟨_, _, _, _, n, m, k, -, ht⟩ := exec_read p r h
  exact ⟨_, n, m, k, ht, newEntries_eq (by simp only [List.append_assoc])⟩

/-- Settles O12: the run of a `READ`, its entries written out. -/
theorem readEmitsItsTrace : Obligations.ReadEmitsItsTrace := by
  unfold Obligations.ReadEmitsItsTrace
  intro p r s hcall
  obtain ⟨_, _, _, _, n, m, k, hn, ht⟩ := exec_read p r hcall
  refine ⟨_, n, m, k, ht, hn, ?_, rfl, rfl, rfl, rfl, rfl, rfl, rfl, rfl, rfl, rfl⟩
  simp [readEntries, xferEntries, readBytes, accept, preambleByte, dummyByte, rxAt]

/-- Settles O13: the run of a `READ` writes none of these fields, and the environment's script is used up. -/
theorem readLeavesTheRest : Obligations.ReadLeavesTheRest := by
  unfold Obligations.ReadLeavesTheRest
  intro p r s t h
  obtain ⟨henv, hp⟩ := exec_usesUp h
  obtain ⟨_, _, _, _, n, m, k, -, ht⟩ := exec_read p r (exec_next h).1
  cases h.symm.trans ht
  exact ⟨rfl, rfl, rfl, rfl, by simp [List.append_assoc], henv, rfl, rfl, hp⟩

/-- Settles O14: the run of a `READ`, its result as a number. -/
theorem readResultIsTheTwoAnswers : Obligations.ReadResultIsTheTwoAnswers := by
  unfold Obligations.ReadResultIsTheTwoAnswers
  intro p r s hcall
  obtain ⟨_, _, _, _, n, m, k, -, ht⟩ := exec_read p r hcall
  have hresult : (rxAt s 6 ++ rxAt s 7).toNat = ((rxAt s 6).toNat <<< 8) ||| (rxAt s 7).toNat := BitVec.toNat_append _ _
  have hsum : (rxAt s 6).toNat * 256 + (rxAt s 7).toNat = ((rxAt s 6).toNat <<< 8) ||| (rxAt s 7).toNat := by
    rw [← Nat.shiftLeft_add_eq_or_of_lt (rxAt s 7).isLt, Nat.shiftLeft_eq]
  refine ⟨_, ht, rfl, rfl, hresult.trans hsum.symm, hresult, ?_⟩
  rw [readEntries, ← List.append_assoc]
  exact List.getLast?_concat

/-- Settles O15: among the entries of a `READ`, the five before header byte 2 are driven and those after `OeOff` not. -/
theorem readReleasesAfterHeaderByteTwo : Obligations.ReadReleasesAfterHeaderByteTwo := by
  unfold Obligations.ReadReleasesAfterHeaderByteTwo
  intro p r s hcall
  obtain ⟨t, n, m, k, ht, hnew⟩ := exec_read_newEntries p r hcall
  refine ⟨t, [⟨.accept (.read p r), s.oe, s.ie⟩] ++ isrRuns n s.oe s.ie ++ [⟨.oeOn, true, s.ie⟩] ++
      isrRuns m true s.ie ++ [⟨.irqOff, true, false⟩] ++ xferEntries s true false 0
        [preambleByte, preambleByte, preambleByte, preambleByte, headerByte1 .read p],
    xferEntries s false false 7 [dummyByte] ++ [⟨.irqOn, false, true⟩] ++ isrRuns k false true ++
      [⟨.deliver (rxAt s 6 ++ rxAt s 7), false, true⟩], ht, ?_, ?_, ?_, ?_, ?_⟩
  · rw [hnew, readEntries]
    simp [readBytes, xferEntries, accept, dummyByte, rxAt]
  · simp only [sentBytes_append, sentBytes_isrRuns, sentBytes_xferEntries]
    rfl
  · simp [or_imp, forall_and, isrRuns, sentByte, xferEntries]
  · simp only [sentBytes_append, sentBytes_isrRuns, sentBytes_xferEntries]
    rfl
  · simp [or_imp, forall_and, isrRuns, xferEntries]

/-! ### Both commands -/

/-- Settles O17: the `Xfer` entries of each command stand on the line as their `oe` says, nothing else does. -/
theorem lineCarriesTheFrame : Obligations.LineCarriesTheFrame := by
  unfold Obligations.LineCarriesTheFrame
  intro i s hcall
  rw [encode_eq]
  cases i with
  | write p r d =>
    obtain ⟨t, n, ht, -, hnew⟩ := exec_write_newEntries p r d hcall
    have hcells : lineCells (newEntries s t) = ((writeBytes (accept (.write p r d) s)).flatMap lineBits).map some := by
      rw [hnew, writeEntries]
      simp only [lineCells_append, lineCells_isrRuns, lineCells_xferEntries]
      rfl
    exact ⟨t, ht, by rw [hcells]; rfl, hcells⟩
  | read p r =>
    obtain ⟨t, n, m, k, ht, hnew⟩ := exec_read_newEntries p r hcall
    have hcells : lineCells (newEntries s t) =
        ((readBytes (accept (.read p r) s)).flatMap lineBits).map some ++ List.replicate 16 none := by
      rw [hnew, readEntries]
      simp only [lineCells_append, lineCells_isrRuns, lineCells_xferEntries]
      rfl
    exact ⟨t, ht, by rw [hcells]; rfl, hcells⟩

end Sys2Proof.Machine
end

section
/-! PROOFS. Two runs of a command compared: operands that differ in bits with no effect, answers that differ (R56, R106,
R109). -/

namespace Sys2Proof.Machine

open Sys2Proof

/-! ### A run does not read the trace -/

/-- The trace is longer by the given older entries. -/
def withHistory (old : List Entry) (s : State) : State := { s with trace := old ++ s.trace }

/-- The environment's moves before an event do not read the trace. -/
theorem envDrainList_withHistory (old : List Entry) (ms : List EnvMove) (s : State) :
    envDrainList ms (withHistory old s) = withHistory old (envDrainList ms s) := by
  induction ms generalizing s with
  | nil => rfl
  | cons m ms ih =>
    cases m with
    | isr n =>
      have hisr : isrStep n (withHistory old s) = withHistory old (isrStep n s) := by
        simp [isrStep, emit, withHistory]
      rw [envDrainList, envDrainList, hisr, ih, apply_ite (withHistory old)]
      rfl
    | pending n => exact ih { s with irqPending := n }
    | pass => rfl

/-- A transition does not read the trace. -/
theorem framerAct_withHistory (old : List Entry) (s : State) :
    framerAct (withHistory old s) = withHistory old (framerAct s) := by
  have hevents : rowEvents (withHistory old s) = rowEvents s := rfl
  have hrow : rowState (withHistory old s) = withHistory old (rowState s) := by
    rcases s with ⟨⟩
    next q _ _ _ _ _ _ _ _ _ _ _ _ => cases q <;> rfl
  rw [framerAct_eq, framerAct_eq, hevents, hrow]
  simp [withHistory]

/-- A run of the framer does not read the trace. -/
theorem framerRun_withHistory (old : List Entry) (k : Nat) (s : State) :
    framerRun k (withHistory old s) = withHistory old (framerRun k s) := by
  induction k generalizing s with
  | zero => rfl
  | succ k ih =>
    have hdrain : envDrain (withHistory old s) = withHistory old (envDrain s) := envDrainList_withHistory old s.envIn s
    rw [framerRun, hdrain, framerAct_withHistory, ih]
    rfl

/-- An `Accept` apart from the trace before it and its own entry. -/
theorem accept_withHistory (i : Instr) (s : State) :
    accept i s = withHistory (s.trace ++ [⟨.accept i, s.oe, s.ie⟩]) { accept i s with trace := [] } := by
  cases i <;> simp [accept, emit, withHistory]

/-- Commands that differ in their record alone give one state apart from that record (R56). -/
theorem exec_congr {i j : Instr} {s : State} (h : CanCall s) (hk : i.kind = j.kind)
    (ha : { accept i s with trace := [] } = { accept j s with trace := [] }) :
    ∃ t u, exec i s = .next t ∧ exec j s = .next u ∧
      { t with trace := (newEntries s t).tail } = { u with trace := (newEntries s u).tail } := by
  have hrun (i : Instr) : ∃ t, exec i s = .next t ∧ { t with trace := (newEntries s t).tail } =
      framerRun (pathLength i.kind) { accept i s with trace := [] } := by
    refine ⟨_, exec_ready i h, ?_⟩
    rw [accept_withHistory, framerRun_withHistory]
    simp [withHistory, newEntries]
  obtain ⟨t, ht, ht'⟩ := hrun i
  obtain ⟨u, hu, hu'⟩ := hrun j
  exact ⟨t, u, ht, hu, by rw [ht', hu', hk, ha]⟩

/-- The header word of two operand pairs with the same low five bits is the same (R56). -/
theorem headerBytes_congr (k : Kind) {p p' r r' : AddrOperand} (hp : p.extractLsb' 0 5 = p'.extractLsb' 0 5)
    (hr : r.extractLsb' 0 5 = r'.extractLsb' 0 5) :
    headerByte1 k p = headerByte1 k p' ∧ headerByte2 p r = headerByte2 p' r' := by
  have hword : (headerByte1 k p ++ headerByte2 p r : BitVec 16) = headerByte1 k p' ++ headerByte2 p' r' := by
    rw [headerBytes_append, headerBytes_append, headerWord, headerWord, hp, hr]
  constructor
  · simpa only [BitVec.extractLsb'_append_eq_left (a := headerByte1 _ _)] using congrArg (BitVec.extractLsb' 8 8) hword
  · simpa only [BitVec.extractLsb'_append_eq_right (b := headerByte2 _ _)] using congrArg (BitVec.extractLsb' 0 8) hword

/-- Settles O7: `Accept` of the two commands gives one state apart from its entry, and a run does not read the trace. -/
theorem highOperandBitsHaveNoEffect : Obligations.HighOperandBitsHaveNoEffect := by
  unfold Obligations.HighOperandBitsHaveNoEffect
  intro p p' r r' d s hcall hp hr
  obtain ⟨hw1, hw2⟩ := headerBytes_congr .write hp hr
  obtain ⟨hr1, hr2⟩ := headerBytes_congr .read hp hr
  exact ⟨exec_congr hcall rfl (by simp [accept, emit, hw1, hw2]),
    exec_congr hcall rfl (by simp [accept, emit, hr1, hr2])⟩

/-! ### A run does not read what the PHY answers -/

/-- Blinding an entry twice is blinding it once. -/
theorem blindEntry_blindEntry (e : Entry) : blindEntry (blindEntry e) = blindEntry e := by
  rcases e with ⟨⟨⟩, _, _⟩ <;> rfl

/-- The environment's moves before an event do not read the answers. -/
theorem blind_envDrainList (ms : List EnvMove) (s : State) :
    blind (envDrainList ms s) = envDrainList ms (blind s) := by
  induction ms generalizing s with
  | nil => rfl
  | cons m ms ih =>
    cases m with
    | isr n =>
      have hisr : isrStep n (blind s) = blind (isrStep n s) := by
        simp [isrStep, emit, blind, blindEntry, blindEvent]
      rw [envDrainList, envDrainList, hisr, ← ih, apply_ite blind]
      rfl
    | pending n => exact ih { s with irqPending := n }
    | pass => rfl

/-- `Accept` does not read the answers. -/
theorem blind_accept (i : Instr) (s : State) : blind (accept i s) = accept i (blind s) := by
  cases i <;> simp [accept, emit, blind, blindEntry, blindEvent]

/-- All that a transition takes from the answers is blinded away. -/
theorem blind_framerAct (s : State) : blind (framerAct s) = blind (framerAct (blind s)) := by
  have hold : (s.trace.map blindEntry).map blindEntry = s.trace.map blindEntry := by
    simp [blindEntry_blindEntry]
  rw [framerAct_eq, framerAct_eq]
  cases hq : s.seq <;> simp [blind, rowState, rowEvents, slotByte, shifted, hq, hold, blindEntry, blindEvent]

/-- States alike but for the answers stay so through a run of the framer (R109). -/
theorem blind_framerRun (k : Nat) {s s' : State} (h : blind s = blind s') :
    blind (framerRun k s) = blind (framerRun k s') := by
  induction k generalizing s s' with
  | zero => exact h
  | succ k ih =>
    have hdrain (u : State) : blind (envDrain u) = envDrain (blind u) := blind_envDrainList u.envIn u
    refine ih ?_
    rw [blind_framerAct, blind_framerAct (envDrain s'), hdrain, hdrain, h]

/-- Settles O18: `Accept` and every transition keep two states alike but for the answers. -/
theorem answersSteerNothing : Obligations.AnswersSteerNothing := by
  unfold Obligations.AnswersSteerNothing
  intro i s s' hcall hcall' h
  exact ⟨_, _, exec_ready i hcall, exec_ready i hcall', blind_framerRun _ (by rw [blind_accept, blind_accept, h])⟩

end Sys2Proof.Machine
end

section
/-! PROOFS. Steps while a command is in progress: they go on, the host waits, and event by event they reach the state of
the call (R71, R100, R107, R114). -/

namespace Sys2Proof.Machine

open Sys2Proof

/-! ### A single step while busy -/

/-- A move of the environment touches its own part and the trace alone (R107). -/
theorem envMove_frame {s t : State} (h : envMove s = some t) :
    ∃ env pending es, t = { s with envIn := env, irqPending := pending, trace := s.trace ++ es } := by
  rcases envMove_cases h with ⟨n, ms, -, -, rfl⟩ | ⟨n, ms, -, rfl⟩
  · exact ⟨ms, n, [_], rfl⟩
  · exact ⟨ms, n, [], by simp⟩

/-- Settles O24: an enabled move of the environment is the step, else the framer's transition on its configured
engine. -/
theorem busyStepsAlwaysGoOn : Obligations.BusyStepsAlwaysGoOn := by
  unfold Obligations.BusyStepsAlwaysGoOn
  intro s hr hq
  rcases he : envMove s with _ | t
  · have hr' : sseReady (envPass s).sse = true := by rw [envPass_eq]; exact hr
    have hstep := step_of_busy hq he
    exact ⟨_, hstep.trans (framerStep_ready hr'), fun _ => hstep⟩
  · exact ⟨t, step_of_envMove he, nofun⟩

/-- Settles O29: while busy a step is the environment's or the framer's, and neither touches these fields. -/
theorem hostWaitsWhileBusy : Obligations.HostWaitsWhileBusy := by
  unfold Obligations.HostWaitsWhileBusy
  intro s t hq h
  rcases step_next h with henv | ⟨-, -, -, rfl⟩ | ⟨hidle, -, -⟩
  · obtain ⟨_, _, _, rfl⟩ := envMove_frame henv
    exact ⟨rfl, rfl, rfl⟩
  · obtain ⟨hsse, hin, hgot, -⟩ := framerAct_frame (envPass s)
    rw [hsse, hin, hgot, envPass_eq]
    exact ⟨rfl, rfl, rfl⟩
  · exact absurd hidle hq

/-! ### Runs of single steps -/

/-- `n` steps of the machine, each to a next state. -/
inductive Steps : Nat → State → State → Prop
  | none (s : State) : Steps 0 s s
  | cons {n : Nat} {s t u : State} (h : step s = .next t) (h' : Steps n t u) : Steps (n + 1) s u

/-- Steps, then the steps after them. -/
theorem Steps.trans {m n : Nat} {s t u : State} (h : Steps m s t) (h' : Steps n t u) : Steps (m + n) s u := by
  induction h with
  | none s => rwa [Nat.zero_add]
  | cons hs _ ih => rw [Nat.succ_add]; exact .cons hs (ih h')

/-- A run of a machine takes a step, then runs on. -/
theorem run_succ_of_step (M : Host.Core) (n : Nat) {s t : M.State} (h : M.step s = .next t) :
    M.run (n + 1) s = M.run n t := by
  rw [Host.Core.run, h]

/-- The host's run of the machine takes these steps. -/
theorem Steps.run {n : Nat} {s t : State} (h : Steps n s t) : Host.Core.run Sys2Proof.core n s = .next t := by
  induction h with
  | none s => rfl
  | cons hs _ ih => exact (run_succ_of_step Sys2Proof.core _ hs).trans ih

/-! ### Event by event as in a call -/

/-- The moves before an event do not read the script they stand in. -/
theorem envDrainList_envIn (env : List EnvMove) (ms : List EnvMove) (s : State) :
    envDrainList ms { s with envIn := env } = envDrainList ms s := by
  induction ms generalizing s with
  | nil => rfl
  | cons m ms ih =>
    cases m with
    | isr n =>
      have hisr : envDrainList ms (isrStep n { s with envIn := env }) = envDrainList ms (isrStep n s) :=
        ih (isrStep n s)
      rw [envDrainList, envDrainList, hisr]
    | pending n => exact ih { s with irqPending := n }
    | pass => rfl

/-- The moves before an event begin with the enabled move, where there is one. -/
theorem envDrain_of_envMove {s t : State} (h : envMove s = some t) : envDrain s = envDrain t := by
  rcases envMove_cases h with ⟨n, ms, he, hi, rfl⟩ | ⟨n, ms, he, rfl⟩
  · rw [envDrain, he, envDrainList, if_pos hi]
    exact (envDrainList_envIn ms ms (isrStep n s)).symm
  · rw [envDrain, he, envDrainList]
    exact (envDrainList_envIn ms ms { s with irqPending := n }).symm

/-- With no enabled move the environment only lets the others move. -/
theorem envDrain_of_no_envMove {s : State} (h : envMove s = none) : envDrain s = envPass s := by
  have hself {env : List EnvMove} (he : s.envIn = env) : ({ s with envIn := env } : State) = s := by subst he; rfl
  rw [envDrain, envPass]
  rcases he : s.envIn with _ | ⟨n | n | _, ms⟩
  · exact hself he
  · have hi : ¬ s.ie = true := fun hi => by simp [envMove, he, hi] at h
    exact (if_neg hi).trans (hself he)
  · simp [envMove, he] at h
  · rfl

/-- An event of a command, the environment's moves before it included, is taken in single steps, and in one where the
environment is quiet (R107, R125). -/
theorem event_steps {s : State} (hr : sseReady s.sse = true) (hq : s.seq ≠ .idle) :
    ∃ n, Steps n s (framerAct (envDrain s)) ∧ (s.envIn = [] → n = 1) := by
  have hact {s : State} (hr : sseReady s.sse = true) (hq : s.seq ≠ .idle) (he : envMove s = none) :
      Steps 1 s (framerAct (envDrain s)) := by
    have hr' : sseReady (envPass s).sse = true := by rw [envPass_eq]; exact hr
    rw [envDrain_of_no_envMove he]
    exact .cons ((step_of_busy hq he).trans (framerStep_ready hr')) (.none _)
  induction hms : s.envIn generalizing s with
  | nil => exact ⟨1, hact hr hq (by simp [envMove, hms]), fun _ => rfl⟩
  | cons m ms ih =>
    rcases he : envMove s with _ | t
    · exact ⟨1, hact hr hq he, fun _ => rfl⟩
    · have ht : t.envIn = ms ∧ t.sse = s.sse ∧ t.seq = s.seq := by
        rcases envMove_cases he with ⟨n, ms', hms', -, rfl⟩ | ⟨n, ms', hms', rfl⟩ <;>
          exact ⟨(List.cons.inj (hms'.symm.trans hms)).2, rfl, rfl⟩
      obtain ⟨htms, hsse, hseq⟩ := ht
      obtain ⟨n, hsteps, -⟩ := ih (hsse ▸ hr) (hseq ▸ hq) htms
      rw [envDrain_of_envMove he]
      exact ⟨n + 1, .cons (step_of_envMove he) hsteps, nofun⟩

/-- A run of the framer that stays on a path is taken in single steps, one an event where the environment is quiet
(R107, R110). -/
theorem framerRun_steps (k : Nat) {s : State} (hr : sseReady s.sse = true) (hk : ∀ j < k, nextSeq^[j] s.seq ≠ .idle) :
    ∃ n, Steps n s (framerRun k s) ∧ (s.envIn = [] → n = k) := by
  induction k generalizing s with
  | zero => exact ⟨0, .none s, fun _ => rfl⟩
  | succ k ih =>
    obtain ⟨m, hevent, hm⟩ := event_steps hr (hk 0 k.succ_pos)
    obtain ⟨_, _, _, hdrain, -⟩ := envDrain_spec s
    obtain ⟨hsse, -, -, henv, -⟩ := framerAct_frame (envDrain s)
    have hr' : sseReady (framerAct (envDrain s)).sse = true := by rw [hsse, hdrain]; exact hr
    have hk' : ∀ j < k, nextSeq^[j] (framerAct (envDrain s)).seq ≠ .idle := fun j hj => by
      rw [framerAct_seq, (envDrain_latches s).1]
      exact hk (j + 1) (Nat.succ_lt_succ hj)
    obtain ⟨n, hrest, hn⟩ := ih hr' hk'
    refine ⟨m + n, hevent.trans hrest, fun hquiet => ?_⟩
    have hquiet' : (framerAct (envDrain s)).envIn = [] := by rw [henv, envDrain, hquiet]; rfl
    rw [hm hquiet, hn hquiet', Nat.add_comm]

/-- The path of a command does not reach `IDLE` before its last event (R104, R105, R110). -/
theorem accept_path_busy (i : Instr) (s : State) :
    ∀ j < pathLength i.kind, nextSeq^[j] (accept i s).seq ≠ .idle := by
  cases i with
  | write p r d => exact (show ∀ j < 12, nextSeq^[j] .wDI ≠ .idle by decide)
  | read p r => exact (show ∀ j < 13, nextSeq^[j] .rOE ≠ .idle by decide)

/-- A command offered at the port reaches in single steps the state of its call, one step an event after its `Accept`
where the environment is quiet (R100, R110). -/
theorem offer_steps {s : State} {i : Instr} {rest : List HostStep} (hcall : CanCall s) (he : envMove s = none)
    (hin : s.hostIn = .offer i :: rest) :
    ∃ n t, Steps n s t ∧ exec i { envPass s with hostIn := rest } = .next t ∧
      (s.envIn = [] → n = pathLength i.kind + 1) := by
  obtain ⟨hr, hq⟩ := hcall
  have hcall' : CanCall { envPass s with hostIn := rest } := by rw [envPass_eq]; exact ⟨hr, hq⟩
  obtain ⟨-, -, -, -, -, -, -, hsse, -, -, -, -, -, henv⟩ := accept_frame i { envPass s with hostIn := rest }
  have haccept : step s = .next (accept i { envPass s with hostIn := rest }) := by
    have hin' : (envPass s).hostIn = .offer i :: rest := by rw [envPass_eq]; exact hin
    rw [step_of_idle hq he, hostStep, hin']
    exact if_pos hcall'.1
  obtain ⟨n, hsteps, hn⟩ := framerRun_steps (pathLength i.kind) (by rw [hsse]; exact hcall'.1) (accept_path_busy i _)
  refine ⟨n + 1, _, .cons haccept hsteps, exec_ready i hcall', fun hquiet => ?_⟩
  rw [hn (by rw [henv]; simp [envPass, hquiet])]

/-- Settles O25: with a quiet environment each event of the offered command is one step. -/
theorem offeredCommandReturnsOnTime : Obligations.OfferedCommandReturnsOnTime := by
  unfold Obligations.OfferedCommandReturnsOnTime
  intro s rest p r hcall hquiet
  have hreturns (i : Instr) (hin : s.hostIn = .offer i :: rest) :
      ∃ t, Host.Core.run Sys2Proof.core (pathLength i.kind + 1) s = .next t ∧
        exec i { s with hostIn := rest } = .next t := by
    obtain ⟨n, t, hsteps, ht, hn⟩ := offer_steps hcall (by simp [envMove, hquiet]) hin
    rw [show envPass s = s by simp [envPass, hquiet]] at ht
    exact ⟨t, hn hquiet ▸ hsteps.run, ht⟩
  exact ⟨fun d => hreturns (.write p r d), hreturns (.read p r)⟩

/-- Settles O26: the single steps of an offered command, whatever moves the environment puts between them. -/
theorem offeredCommandRefinesTheCall : Obligations.OfferedCommandRefinesTheCall := by
  unfold Obligations.OfferedCommandRefinesTheCall
  intro s i rest hcall he hin
  obtain ⟨n, t, hsteps, ht, -⟩ := offer_steps hcall he hin
  exact ⟨n, t, hsteps.run, ht⟩

end Sys2Proof.Machine
end

section
/-! PROOFS. The host's steps one by one, the environment's handlers, the stops of a command, and who writes what (R75,
R76, R101, R107, R108, R124, R130, R144). -/

namespace Sys2Proof.Machine

open Sys2Proof

/-! ### Stops -/

/-- Settles O19: the first check of a call, of an offer and of a shifting transition is the engine's configuration. -/
theorem commandBeforeInitFaults : Obligations.CommandBeforeInitFaults := by
  unfold Obligations.CommandBeforeInitFaults
  intro i s hr
  have hrun (k : Nat) : runCommand i k s = .fault .beforeInit := by simp [runCommand, hr]
  refine ⟨?_, by simp [offerCommand, hr], fun hs => by simp [framerStep, hs, hr]⟩
  cases i <;> exact hrun _

/-- Settles O20: the second check of a call is the sequencer's state. -/
theorem overlappingCommandIsRefused : Obligations.OverlappingCommandIsRefused := by
  unfold Obligations.OverlappingCommandIsRefused
  intro i s hr hq
  have hrun (k : Nat) : runCommand i k s = .refused .overlappingCommand := by simp [runCommand, hr, busy, hq]
  cases i <;> exact hrun _

/-! ### The host's entries -/

/-- In `IDLE` with no enabled move of the environment the entry at the head of the host's script is what the step runs:
in `s` with the environment's pass taken, the host sees that entry (R108). -/
theorem step_of_hostIn {s : State} {ent : HostStep} {rest : List HostStep} (hq : s.seq = .idle) (he : envMove s = none)
    (hin : s.hostIn = ent :: rest) :
    step s = hostStep (envPass s) ∧ (envPass s).hostIn = ent :: rest :=
  ⟨step_of_idle hq he, by rw [envPass_eq]; exact hin⟩

/-- Settles O27: the host's call, or its frame that decodes, is `exec`. -/
theorem stepRunsTheDecodedCommand : Obligations.StepRunsTheDecodedCommand := by
  unfold Obligations.StepRunsTheDecodedCommand
  intro s i rest hq he
  refine ⟨fun hin => ?_, fun bs hin hd => ?_⟩ <;> obtain ⟨hstep, hin'⟩ := step_of_hostIn hq he hin
  · rw [hstep, hostStep, hin']
  · rw [hstep, hostStep, hin']
    simp only [callFrame, hd]

/-- A word that decodes stands for a frame that decodes. -/
theorem decodeFrame_of_decodeTableWord {nbits w : Nat} {i : Instr} (h : decodeTableWord nbits w = some i) :
    decodeFrame (tableWordFrame nbits w) = .ok i := by
  unfold decodeTableWord at h
  cases hd : decodeFrame (tableWordFrame nbits w) with
  | ok j => rw [hd] at h; exact congrArg _ (Option.some.inj h)
  | error e => rw [hd] at h; cases h

/-- Settles O28: the placed frame is the host's next entry, and the engine that is placed with it is configured. -/
theorem placedWordIsRunNext : Obligations.PlacedWordIsRunNext := by
  unfold Obligations.PlacedWordIsRunNext
  intro s nbits w i hd
  have hstep : step (s.withFetchWord nbits w) = exec i { s with seq := .idle, sse := sseAfterInit } :=
    (stepRunsTheDecodedCommand (s.withFetchWord nbits w) i s.hostIn rfl rfl).2 _ rfl (decodeFrame_of_decodeTableWord hd)
  exact ⟨hstep, _, hstep.trans (exec_ready i ⟨rfl, rfl⟩)⟩

/-- Settles O21: the host's offer is the `Accept` of the command. -/
theorem acceptLatchesTheOperands : Obligations.AcceptLatchesTheOperands := by
  unfold Obligations.AcceptLatchesTheOperands
  intro s rest p r hcall he
  have haccept (i : Instr) (hin : s.hostIn = .offer i :: rest) :
      step s = .next (accept i { s with hostIn := rest, envIn := (envPass s).envIn }) := by
    obtain ⟨hstep, hin'⟩ := step_of_hostIn hcall.2 he hin
    rw [hstep, hostStep, hin', envPass_eq]
    exact if_pos hcall.1
  exact ⟨fun d hin => haccept (.write p r d) hin, fun hin => haccept (.read p r) hin⟩

/-- Settles O31: the host's `INIT` is `sseInit`, a record update. -/
theorem initConfiguresTheEngine : Obligations.InitConfiguresTheEngine := by
  unfold Obligations.InitConfiguresTheEngine
  intro s rest hq he hin
  obtain ⟨hstep, hin'⟩ := step_of_hostIn hq he hin
  refine ⟨sseInit { envPass s with hostIn := rest }, by rw [hstep, hostStep, hin'], rfl, rfl, rfl, rfl, rfl, rfl, rfl,
    rfl, ?_, rfl, rfl⟩
  rw [envPass_eq]
  rfl

/-- Settles O35: the host's read of `rdata`. -/
theorem hostReadsTheResult : Obligations.HostReadsTheResult := by
  unfold Obligations.HostReadsTheResult
  intro s rest hq he hin
  obtain ⟨hstep, hin'⟩ := step_of_hostIn hq he hin
  rw [hstep, hostStep, hin', envPass_eq]

/-- Settles O42: the two steps of the excluded software. -/
theorem excludedSoftwareWritesOnlyIe : Obligations.ExcludedSoftwareWritesOnlyIe := by
  unfold Obligations.ExcludedSoftwareWritesOnlyIe
  intro s rest hq he
  refine ⟨fun b hin => ?_, fun hin => ?_⟩ <;>
  · obtain ⟨hstep, hin'⟩ := step_of_hostIn hq he hin
    rw [hstep, hostStep, hin']

/-- Settles O41: in `IDLE` with nothing to come the host's step is no change. -/
theorem resetWaitsInIdle : Obligations.ResetWaitsInIdle := by
  unfold Obligations.ResetWaitsInIdle
  have hwaits (s : State) (hq : s.seq = .idle) (hin : s.hostIn = []) (henv : s.envIn = []) : step s = .next s := by
    rw [step_of_idle hq (by simp [envMove, henv]), show envPass s = s by simp [envPass, henv], hostStep, hin]
  exact ⟨rfl, rfl, rfl, hwaits State.reset rfl rfl rfl, hwaits⟩

/-- Settles O36: the console's step is the call of its `WRITE`, whose header bytes are evaluated. -/
theorem consoleWritesToRegisterZero : Obligations.ConsoleWritesToRegisterZero := by
  unfold Obligations.ConsoleWritesToRegisterZero
  intro s key rest hcall he hin
  obtain ⟨hstep, hin'⟩ := step_of_hostIn hcall.2 he hin
  have hexec : step s = exec (consoleWrite key) { s with envIn := (envPass s).envIn, hostIn := rest } := by
    rw [hstep, hostStep, hin', envPass_eq]
  have hcall' : CanCall { s with envIn := (envPass s).envIn, hostIn := rest } := hcall
  have h1 : headerByte1 .write 0x00#8 = 0x50#8 := rfl
  have h2 : headerByte2 0x00#8 0x00#8 = 0x02#8 := rfl
  obtain ⟨_, _, _, _, n, -, ht⟩ := exec_write 0x00#8 0x00#8 (Config.xCmdData key) hcall'
  obtain ⟨t, ht', hsent⟩ := exec_sentBytes (consoleWrite key) hcall'
  cases ht'.symm.trans ht
  simp only [consoleWrite, Instr.kind, Instr.phyAddr, Instr.regAddr, h1, h2] at hsent
  exact ⟨_, hexec.trans ht, h1, h2, rfl, hsent⟩

/-! ### Handlers -/

/-- Settles O30: with `ie = 1` the handler's move is enabled, with `ie = 0` no move is and no pass is taken. -/
theorem handlerRunsOnlyWhileEnabled : Obligations.HandlerRunsOnlyWhileEnabled := by
  unfold Obligations.HandlerRunsOnlyWhileEnabled
  intro s n ms henv
  refine ⟨fun hi => ?_, fun hi => ?_⟩
  · have hmove : envMove s = some (isrStep n { s with envIn := ms }) := by simp [envMove, henv, hi]
    rw [step_of_envMove hmove, ← hi]
    rfl
  · have hmove : envMove s = none := by simp [envMove, henv, hi]
    have hpass : envPass s = s := by simp [envPass, henv]
    simp [step, systemStep, hmove, hpass]

/-! ### Who writes what -/

/-- A called command leaves the engine's configuration (R76). -/
theorem exec_sse {i : Instr} {s t : State} (h : exec i s = .next t) : t.sse = s.sse := by
  cases i with
  | write p r d =>
    obtain ⟨-, -, -, hsse, -⟩ := writeLeavesTheRest p r d s t h
    exact hsse
  | read p r =>
    obtain ⟨-, hsse, -⟩ := readLeavesTheRest p r s t h
    exact hsse

/-- A host step leaves the engine's configuration, or is `INIT` (R76). -/
theorem hostStep_sse {s t : State} (h : hostStep s = .next t) :
    t.sse = s.sse ∨ ∃ rest, s.hostIn = .init :: rest ∧ t.sse = sseAfterInit := by
  rcases hostStep_next h with ⟨-, rfl⟩ | ⟨i, e, rest, -, -, hexec⟩ | ⟨i, rest, -, -, rfl⟩ | ⟨rest, hin, rfl⟩ |
    ⟨rest, -, rfl⟩ | ⟨b, rest, -, rfl⟩ | ⟨rest, -, rfl⟩
  · exact .inl rfl
  · have hsse := exec_sse hexec
    exact .inl hsse
  · obtain ⟨-, -, -, -, -, -, -, hsse, -⟩ := accept_frame i { s with hostIn := rest }
    exact .inl hsse
  · exact .inr ⟨rest, hin, rfl⟩
  all_goals exact .inl rfl

/-- Settles O32: neither the environment nor the framer touches the configuration, and the host's `INIT` writes a
configured one. -/
theorem onlyInitConfigures : Obligations.OnlyInitConfigures := by
  unfold Obligations.OnlyInitConfigures
  intro s t h
  have hsse : t.sse = s.sse ∨ ∃ rest, s.seq = .idle ∧ s.hostIn = .init :: rest ∧ t.sse = sseAfterInit := by
    rcases step_next h with henv | ⟨-, -, -, rfl⟩ | ⟨hq, -, hhost⟩
    · obtain ⟨_, _, _, rfl⟩ := envMove_frame henv
      exact .inl rfl
    · rw [(framerAct_frame _).1, envPass_eq]
      exact .inl rfl
    · rw [envPass_eq] at hhost
      exact (hostStep_sse hhost).imp_right fun ⟨rest, hin, hcfg⟩ => ⟨rest, hq, hin, hcfg⟩
  refine ⟨hsse, fun hr => ?_⟩
  rcases hsse with hsame | ⟨-, -, -, hcfg⟩
  · rwa [hsame]
  · rw [hcfg]; rfl

/-- What a transition changes tells its sequencer state (R14, R15, R17, R18, R20). -/
theorem framerAct_writers (s : State) :
    ((framerAct s).rdata ≠ s.rdata → s.seq = .rRES) ∧ ((framerAct s).rxh ≠ s.rxh → s.seq = .rRH) ∧
      ((framerAct s).rxl ≠ s.rxl → s.seq = .rRL) ∧
      ((framerAct s).sr ≠ s.sr ∨ (framerAct s).sdone ≠ s.sdone → shifts s.seq = true) ∧
      ((framerAct s).oe ≠ s.oe → s.seq ∈ [.wOE, .wOD, .rOE, .rOD]) ∧
      ((framerAct s).ie ≠ s.ie → s.seq ∈ [.wDI, .wEI, .rDI, .rEI]) := by
  rw [framerAct_eq]
  cases hq : s.seq <;> simp [rowState, shifted, shifts, hq]

/-- A called command that changes the result or a received byte is a `READ`, one that changes the data a `WRITE` (R13 to
R15). -/
theorem exec_writers {i : Instr} {s t : State} (h : exec i s = .next t) :
    (t.rdata ≠ s.rdata ∨ t.rxh ≠ s.rxh ∨ t.rxl ≠ s.rxl → i.kind = .read) ∧ (t.wd ≠ s.wd → i.kind = .write) := by
  cases i with
  | write p r d =>
    obtain ⟨hrxh, hrxl, hrdata, -⟩ := writeLeavesTheRest p r d s t h
    simp [hrxh, hrxl, hrdata, Instr.kind]
  | read p r =>
    obtain ⟨hwd, -⟩ := readLeavesTheRest p r s t h
    simp [hwd, Instr.kind]

/-- An `Accept` that changes the data is that of a `WRITE` (R13). -/
theorem accept_wd {i : Instr} {s : State} (h : (accept i s).wd ≠ s.wd) : i.kind = .write := by
  cases i with
  | write p r d => rfl
  | read p r => exact absurd rfl h

/-- What a host step changes tells its entry: a called command, an `Accept`, `INIT`, or a write of `ie` (R108). -/
theorem hostStep_writers {s t : State} (h : hostStep s = .next t) :
    (t.rdata ≠ s.rdata ∨ t.rxh ≠ s.rxh ∨ t.rxl ≠ s.rxl → ∃ i, calledCommand s = some i ∧ i.kind = .read) ∧
      (t.sr ≠ s.sr ∨ t.sdone ≠ s.sdone → ∃ i, calledCommand s = some i) ∧
      (t.oe ≠ s.oe → (∃ i, calledCommand s = some i) ∨ ∃ rest, s.hostIn = .init :: rest) ∧
      (t.ie ≠ s.ie → (∃ i, calledCommand s = some i) ∨ ∃ rest, s.hostIn = .setIe t.ie :: rest) ∧
      (t.wd ≠ s.wd → ∃ i, nextCommand s = some i ∧ i.kind = .write) ∧
      (t.kind ≠ s.kind ∨ t.h1 ≠ s.h1 ∨ t.h2 ≠ s.h2 → ∃ i, nextCommand s = some i) := by
  rcases hostStep_next h with ⟨-, rfl⟩ | ⟨i, e, rest, -, hi, hexec⟩ | ⟨i, rest, hin, -, rfl⟩ | ⟨rest, hin, rfl⟩ |
    ⟨rest, -, rfl⟩ | ⟨b, rest, hin, rfl⟩ | ⟨rest, -, rfl⟩
  · simp
  · obtain ⟨hread, hwrite⟩ := exec_writers hexec
    have hnext := nextCommand_of_called hi
    exact ⟨fun h => ⟨i, hi, hread h⟩, fun _ => ⟨i, hi⟩, fun _ => .inl ⟨i, hi⟩, fun _ => .inl ⟨i, hi⟩,
      fun h => ⟨i, hnext, hwrite h⟩, fun _ => ⟨i, hnext⟩⟩
  · have hnext : nextCommand s = some i := by simp only [nextCommand, hin]
    obtain ⟨hoe, hie, hrxh, hrxl, hrdata, hsr, hsdone, -⟩ := accept_frame i { s with hostIn := rest }
    exact ⟨by simp [hrdata, hrxh, hrxl], by simp [hsr, hsdone], fun h => absurd hoe h, fun h => absurd hie h,
      fun h => ⟨i, hnext, accept_wd h⟩, fun _ => ⟨i, hnext⟩⟩
  · simp [hin]
  · simp
  · simp [hin]
  · simp

/-- Settles O34: what the environment, each transition and each host step can change. -/
theorem latchesHaveOneWriter : Obligations.LatchesHaveOneWriter := by
  unfold Obligations.LatchesHaveOneWriter
  intro s t h called accepted
  rcases step_next h with henv | ⟨-, -, -, rfl⟩ | ⟨hq, -, hhost⟩
  · obtain ⟨_, _, _, rfl⟩ := envMove_frame henv
    simp
  · rw [envPass_eq]
    obtain ⟨hrdata, hrxh, hrxl, hsr, hoe, hie⟩ := framerAct_writers { s with envIn := (envPass s).envIn }
    obtain ⟨hkind, h1, h2, hwd⟩ := framerAct_latches { s with envIn := (envPass s).envIn }
    exact ⟨fun h => .inl (hrdata h), fun h => .inl (hrxh h), fun h => .inl (hrxl h), fun h => .inl (hsr h),
      fun h => .inl (hoe h), fun h => .inl (hie h), fun h => absurd hwd h, by simp [hkind, h1, h2]⟩
  · rw [envPass_eq] at hhost
    obtain ⟨hresult, hsr, hoe, hie, hwd, hlatch⟩ := hostStep_writers hhost
    have hcalled : (∃ i, calledCommand s = some i) → ∃ i, called i := fun ⟨i, hi⟩ => ⟨i, hq, hi⟩
    have hread : (∃ i, calledCommand s = some i ∧ i.kind = .read) → ∃ i, called i ∧ i.kind = .read :=
      fun ⟨i, hi, hk⟩ => ⟨i, ⟨hq, hi⟩, hk⟩
    exact ⟨fun h => .inr (hread (hresult (.inl h))), fun h => .inr (hread (hresult (.inr (.inl h)))),
      fun h => .inr (hread (hresult (.inr (.inr h)))), fun h => .inr (hcalled (hsr h)),
      fun h => .inr ((hoe h).imp hcalled fun hin => ⟨hq, hin⟩),
      fun h => .inr ((hie h).imp hcalled fun hin => ⟨hq, hin⟩),
      fun h => (hwd h).imp fun i ⟨hi, hk⟩ => ⟨⟨hq, hi⟩, hk⟩, fun h => (hlatch h).imp fun i hi => ⟨hq, hi⟩⟩

/-! ### Words of the spec -/

/-- Settles O3: five words evaluated. -/
theorem wordsOfTheSpecDecode : Obligations.WordsOfTheSpecDecode := by
  unfold Obligations.WordsOfTheSpecDecode
  decide

end Sys2Proof.Machine
end
